-- ==== Sys2Proof/Word.lean ====
section
/-! DEFINITION. The types of the machine's values. A time value is a mathematical integer that a register or a port holds only
inside its stated range (00_scope.md R8): operands, the reference, timestamps and command words are `Nat`, and the delta is `Int`.
The ranges come from the widths `W_T` and `W_TS`, which are fields of the configuration (entry 4), and they are checked
(entry 16). What the spec treats as bits is a bit vector, bit 0 least significant (00_scope.md R7). -/

namespace Sys2Proof

/-- The shift accumulator (10_state.md R27). -/
abbrev Acc := BitVec 59

/-- The bit count (10_state.md R26). -/
abbrev Count := BitVec 6

end Sys2Proof
end

