-- ==== Sys2Proof/Config.lean ====
section
/-! DEFINITION. The configuration record `Cfg` of 00_scope.md R5, the checks of R6, the fixed frame geometry, and the one
value the spec leaves uninterpreted, the pluggable checksum validator. -/

namespace Sys2Proof

/-- An inclusive interval `[lo, hi]` of integers of either sign (00_scope.md glossary "Window"; 40_pulse_classifier.md R86). -/
structure Window where
  lo : Int
  hi : Int
  deriving DecidableEq, Repr

/-- `CS_MODE` of 00_scope.md R5: no validation, or the pluggable validator `Config.validator`. -/
inductive CsMode where
  | none
  | pluggable
  deriving DecidableEq, Repr

/-- The configuration record (00_scope.md R5), fixed for the life of the machine (10_state.md R31). -/
structure Cfg where
  /-- `W_T`, the width in bits of the operands `startTime` and `duration` (decision D2). -/
  wT     : Nat
  /-- `W_TS`, the width in bits of the timestamp (decision D16). -/
  wTS    : Nat
  /-- `START_LO`, `START_HI`. -/
  start  : Window
  /-- `DATA_LO`, `DATA_HI`. -/
  data   : Window
  /-- `STOP_LO`, `STOP_HI`. -/
  stop   : Window
  /-- `ZERO_LO`, `ZERO_HI`. -/
  zero   : Window
  /-- `ONE_LO`, `ONE_HI`. -/
  one    : Window
  csMode : CsMode
  deriving DecidableEq, Repr

/-- The validator function `f` of 43_packet_decoder.md R128: "an uninterpreted total function that depends on its arguments
alone", here an opaque constant, so nothing can be proved of its values. DESIGN CHOICE (entry 6), safe. -/
opaque Config.validator : BitVec 55 → BitVec 4 → Bool

namespace Config

/-! The fixed frame geometry (00_scope.md R5; 43_packet_decoder.md R121). -/

def maxMsgBits : Nat := 55
def maxBits : Nat := 59
def csBits : Nat := 4
def idOffset : Nat := 12
def idBits : Nat := 24
def rawFirstNibble : Nat := 9
def rawGroups : Nat := maxBits / 4 - rawFirstNibble

end Config

end Sys2Proof
end

