-- ==== Sys2Proof/Syntax.lean ====
section
/-! DEFINITION. The commands of WSD-CORE: one constructor per row of spec/opcode_table.json. -/

namespace Sys2Proof

/-- A command (30_encoding.md R61, R64). The fields a command ignores are kept, so that a word and its command determine each
other (entry 11). -/
inductive Instr where
  /-- PULSE `s, d` (42_frame_fsm.md R107). -/
  | pulse (s d : Nat)
  /-- RESET; `s` and `d` are ignored (42_frame_fsm.md R118; 30_encoding.md R65). -/
  | reset (s d : Nat)
  /-- A reserved op code; `low` is `op[0]`, ignored like `s` and `d` (42_frame_fsm.md R119; 30_encoding.md R66). -/
  | illegalOp (low : Bool) (s d : Nat)
  deriving DecidableEq, Repr

end Sys2Proof
end

