-- ==== Sys2Proof/WellFormed.lean ====
section
/-! DEFINITION. What is well formed: a configuration by the checks W1 to W5 of 00_scope.md R6, and a command at a width. -/

namespace Sys2Proof

/-- `lo <= hi`. -/
abbrev Window.ordered (w : Window) : Prop := w.lo ≤ w.hi

/-- Two windows, each ordered, share no integer. -/
abbrev Window.disjoint (a b : Window) : Prop := a.hi < b.lo ∨ b.hi < a.lo

/-- Both bounds are below `2^W_T`; no check bounds them from below. -/
abbrev Window.below (wT : Nat) (w : Window) : Prop := w.lo < 2 ^ wT ∧ w.hi < 2 ^ wT

namespace Cfg

/-- W1: every window has `lo <= hi`. -/
abbrev w1 (c : Cfg) : Prop :=
  c.start.ordered ∧ c.data.ordered ∧ c.stop.ordered ∧ c.zero.ordered ∧ c.one.ordered

/-- W2: the three duration windows are pairwise disjoint. -/
abbrev w2 (c : Cfg) : Prop :=
  c.start.disjoint c.data ∧ c.start.disjoint c.stop ∧ c.data.disjoint c.stop

/-- W3: the two delta windows are disjoint. -/
abbrev w3 (c : Cfg) : Prop := c.zero.disjoint c.one

/-- W4: every window bound is below `2^W_T`. -/
abbrev w4 (c : Cfg) : Prop :=
  c.start.below c.wT ∧ c.data.below c.wT ∧ c.stop.below c.wT ∧ c.zero.below c.wT ∧ c.one.below c.wT

/-- W5: the widths are at least 1. -/
abbrev w5 (c : Cfg) : Prop := 1 ≤ c.wT ∧ 1 ≤ c.wTS

/-- The checks of 00_scope.md R6: a model refuses a configuration that fails any of them. -/
abbrev wf (c : Cfg) : Prop := c.w1 ∧ c.w2 ∧ c.w3 ∧ c.w4 ∧ c.w5

end Cfg

namespace Instr

/-- The field `s` of a command, ignored or not (30_encoding.md R61). -/
def s : Instr → Nat
  | .pulse s _ => s
  | .reset s _ => s
  | .illegalOp _ s _ => s

/-- The field `d` of a command, ignored or not (30_encoding.md R61). -/
def d : Instr → Nat
  | .pulse _ d => d
  | .reset _ d => d
  | .illegalOp _ _ d => d

/-- A command is well formed at operand width `wT` if its fields fit: every such value of `s` and `d` is legal, and no other can be
expressed (30_encoding.md R63, R65, R66). -/
abbrev wf (wT : Nat) (i : Instr) : Prop := i.s < 2 ^ wT ∧ i.d < 2 ^ wT

/-- The canonical form: RESET has both ignored fields zero (30_encoding.md R65); the spec gives no other canonical form. -/
abbrev canonical : Instr → Prop
  | .pulse _ _ => True
  | .reset s d => s = 0 ∧ d = 0
  | .illegalOp _ _ _ => True

end Instr

end Sys2Proof
end

