-- ==== Sys2Proof/Decode.lean ====
section
/-! DEFINITION. The command decoder (30_encoding.md R62, R64 to R67), total on every word, and after it the encoder, written
from the same table; both at any operand width `W_T`. -/

namespace Sys2Proof

/-- Why a number is no command word. -/
inductive DecodeError where
  /-- The number has a bit above bit `2*W_T + 1`; the command format has one fixed length (30_encoding.md R62, R67). Safe. -/
  | wordTooWide
  deriving DecidableEq, Repr

/-- The field `op`, bits `[2*W_T+1 : 2*W_T]` (30_encoding.md R62). -/
def opField (wT : Nat) (w : Nat) : BitVec 2 := BitVec.ofNat 2 (w / 2 ^ (2 * wT))

/-- The field `s`, bits `[2*W_T-1 : W_T]`. -/
def sField (wT : Nat) (w : Nat) : Nat := w / 2 ^ wT % 2 ^ wT

/-- The field `d`, bits `[W_T-1 : 0]`. -/
def dField (wT : Nat) (w : Nat) : Nat := w % 2 ^ wT

/-- The op code map (30_encoding.md R64) on the fields of a command. Every op code is a command: the reserved op codes are defined
commands (R66). -/
def decodeFields (op : BitVec 2) (s d : Nat) : Instr :=
  if op = 0#2 then .pulse s d
  else if op = 1#2 then .reset s d
  else .illegalOp (op.getLsbD 0) s d

/-- The command of a word. -/
def decode (wT : Nat) (w : Nat) : Instr := decodeFields (opField wT w) (sField wT w) (dField wT w)

/-- A word given as a number: refused by name if it does not fit the fixed length (30_encoding.md R67). -/
def decodeNat (wT w : Nat) : Except DecodeError Instr :=
  if w < 2 ^ (2 * wT + 2) then .ok (decode wT w) else .error .wordTooWide

/-- The command read from the bits `w` of a row of opcode_table.json, whose numbering is that of 30_encoding.md R62 at the
instance's width, 32. Bits at or above `nbits` are zero (entry 12). -/
def decodeTableWord (nbits w : Nat) : Option Instr := (decodeNat 32 (w % 2 ^ nbits)).toOption

/-- The op code of a command (30_encoding.md R64). -/
def Instr.op : Instr → BitVec 2
  | .pulse _ _ => 0b00#2
  | .reset _ _ => 0b01#2
  | .illegalOp low _ _ => if low then 0b11#2 else 0b10#2

/-- The word `{op, s, d}` of fields that fit (30_encoding.md R62). -/
def wordOf (wT : Nat) (op : BitVec 2) (s d : Nat) : Nat := op.toNat * 2 ^ (2 * wT) + s * 2 ^ wT + d

/-- The word of a command. -/
def encode (wT : Nat) (i : Instr) : Nat := wordOf wT i.op i.s i.d

end Sys2Proof
end

