-- ==== Sys2Proof/Machine/Calibration.lean ====
section
/-! DEFINITION. The values of the configuration record for the WSD-CORE instance (00_scope.md R5). -/

namespace Sys2Proof.Machine

/-- The instance's widths, calibration windows and validator mode (00_scope.md R5; 40_pulse_classifier.md R87; 41_bit_encoder.md R98). -/
def wsdCore : Cfg where
  wT     := 32
  wTS    := 64
  start  := ⟨700, 1200⟩
  data   := ⟨65, 150⟩
  stop   := ⟨400, 500⟩
  zero   := ⟨200, 340⟩
  one    := ⟨60, 190⟩
  csMode := .none

/-- The instance with the validator plugged in, the option of 43_packet_decoder.md R128. -/
def wsdCorePluggable : Cfg := { wsdCore with csMode := .pluggable }

end Sys2Proof.Machine
end

