-- ==== Sys2Proof/Machine/State.lean ====
section
/-! DEFINITION. The state of the machine as plain data, the invariants INV1 to INV5 of 10_state.md, the reasons a step can stop,
and the state after reset. -/

namespace Sys2Proof.Machine

/-- The DecoderState `st` (10_state.md R24): four values, none illegal. -/
inductive DecState where
  | awaitingStart
  | collectingBits
  | awaitingStop
  | collectingChecksum
  deriving DecidableEq, Repr

/-- The status of a response (30_encoding.md R71). Code 6 is reserved and never produced (R72), so it has no constructor. -/
inductive Status where
  | accepted
  | unexpectedSignal
  | invalidInterval
  | completed
  | resetDone
  | checksumReject
  | illegalOp
  deriving DecidableEq, Repr

/-- The message holding register `mq` (10_state.md R29), which is also the decode event (43_packet_decoder.md R126). -/
structure Message where
  id  : BitVec 24
  raw : BitVec 20
  cs  : BitVec 4
  ts  : Nat
  deriving DecidableEq, Repr

/-- The levels of the input pins at one rising clock edge (30_encoding.md R68, R70, R81). -/
structure PortIn where
  rst      : Bool
  inValid  : Bool
  inOp     : BitVec 2
  inS      : Nat
  inD      : Nat
  msgReady : Bool
  now      : Nat
  deriving DecidableEq, Repr

/-- Every pin of a sample holds what its width holds (30_encoding.md R68, R81). -/
abbrev PortIn.Fits (p : PortIn) (c : Cfg) : Prop := p.inS < 2 ^ c.wT ∧ p.inD < 2 ^ c.wT ∧ p.now < 2 ^ c.wTS

/-- The machine's state. The first six fields are exactly the state of 10_state.md R21. The last four are the model's own, which
the spec calls parameters, ports and transient outputs (entries 2, 3, 5, 7). -/
structure State where
  /-- The DecoderState (10_state.md R24). -/
  st     : DecState
  /-- The number of bits in the buffer (10_state.md R26). -/
  cnt    : Count
  /-- The shift accumulator (10_state.md R27). -/
  acc    : Acc
  /-- The timing reference point (10_state.md R25). -/
  ref    : Nat
  /-- A decode event is waiting on the message port (10_state.md R28). -/
  pend   : Bool
  /-- The message holding register (10_state.md R29). -/
  mq     : Message
  /-- The configuration, a parameter of the machine that no step writes (10_state.md R31). -/
  cfg    : Cfg
  /-- The response port after the last edge: `none` is `res_valid = 0` (30_encoding.md R69). -/
  resp   : Option Status
  /-- The level of the `now` input at the current edge: a free draw (43_packet_decoder.md R125). -/
  now    : Nat
  /-- What the host drives on the pins at the coming edges, the next edge first. -/
  inputs : List PortIn
  deriving DecidableEq, Repr

/-- Why the machine stops with a fault. No command faults from a state that meets the invariants (60_exceptions.md R141). -/
inductive Fault where
  /-- `cnt` holds 60..63, which no rule produces: "A model that derives one has departed from the rules: `fault`"
  (93_implementation_defined.md S7; 10_state.md R26, R37). Raised at an edge without reset by `ifLegal`. Safe. -/
  | countOutOfRange
  deriving DecidableEq, Repr

/-- Why the machine gives a command or an edge no meaning. -/
inductive Refusal where
  /-- Raised by an arm of `exec` for an instruction without a meaning. Safe. -/
  | notModelled (mnemonic : String)
  /-- The configuration fails a check W1 to W5: "A model refuses a configuration that fails any of them" (00_scope.md R6). Raised
  by `ifLegal` and `clockEdge`. Safe. -/
  | illFormedConfig
  /-- An operand outside `[0, 2^W_T - 1]`, which no command can express: `refuse` "at the boundary, by name"
  (93_implementation_defined.md S9; 30_encoding.md R63). Raised by `command`. Safe. -/
  | operandOutOfRange
  /-- A pin sample holds a value its `W_T` or `W_TS` bits cannot (93_implementation_defined.md S9; 30_encoding.md R68, R81; entry
  16). Raised by `clockEdge`. Safe. -/
  | pinOutOfRange
  /-- A register or the level of `now` holds a value its width cannot (10_state.md R21; entry 16): no state of the machine. Raised
  by `ifLegal`. Safe. -/
  | registerOutOfRange
  /-- The state violates INV1 to INV5: "A model given any other start state refuses it" (42_frame_fsm.md R106;
  70_reset_and_hazards.md R164). Raised by `ifLegal`. Safe. -/
  | outsideInvariants
  /-- A command performed while `pend = 1`, when the input port accepts none (30_encoding.md R68; 42_frame_fsm.md R106). Raised by
  `command` only when a meaning is applied outside `step`: an edge holds the command and goes on (entry 9).
  Safe. -/
  | inputNotReady
  deriving DecidableEq, Repr

namespace State

/-- INV1 (10_state.md R32): if `st = AwaitingStart` then `cnt = 0` and `acc = 0`. -/
abbrev inv1 (s : State) : Prop := s.st = .awaitingStart → s.cnt = 0 ∧ s.acc = 0

/-- INV2 (10_state.md R33): if `st = CollectingBits` then `0 <= cnt <= 53`. -/
abbrev inv2 (s : State) : Prop := s.st = .collectingBits → s.cnt.toNat ≤ 53

/-- INV3 (10_state.md R34): if `st = AwaitingStop` then `cnt = 54`. -/
abbrev inv3 (s : State) : Prop := s.st = .awaitingStop → s.cnt.toNat = 54

/-- INV4 (10_state.md R35): if `st = CollectingChecksum` then `55 <= cnt <= 58`. -/
abbrev inv4 (s : State) : Prop := s.st = .collectingChecksum → 55 ≤ s.cnt.toNat ∧ s.cnt.toNat ≤ 58

/-- INV5 (10_state.md R36): all bits of `acc` at or above position `cnt` are zero, whenever `cnt < 59`. -/
abbrev inv5 (s : State) : Prop := s.cnt.toNat < 59 → s.acc >>> s.cnt.toNat = 0

/-- INV1 to INV5 together (10_state.md R37). -/
abbrev Inv (s : State) : Prop := s.inv1 ∧ s.inv2 ∧ s.inv3 ∧ s.inv4 ∧ s.inv5

/-- Every register whose width is a parameter, and the level of `now`, hold what that width holds (10_state.md R21, R25, R29). -/
abbrev Fits (s : State) : Prop := s.ref < 2 ^ (s.cfg.wT + 1) ∧ s.mq.ts < 2 ^ s.cfg.wTS ∧ s.now < 2 ^ s.cfg.wTS

/-- `ref` is in the range `[0, 2^(W_T+1) - 2]` (10_state.md R25). -/
abbrev RefInRange (s : State) : Prop := s.ref ≤ 2 ^ (s.cfg.wT + 1) - 2

/-- The state after the reset pin (10_state.md R39). The values of the model's own fields are DESIGN CHOICES: the instance's
configuration (entry 5), no response (entry 7), `now` 0 (entry 3), no pin sample to come (entry 2). -/
def reset : State where
  st     := .awaitingStart
  cnt    := 0
  acc    := 0
  ref    := 0
  pend   := false
  mq     := ⟨0, 0, 0, 0⟩
  cfg    := wsdCore
  resp   := none
  now    := 0
  inputs := []

end State

end Sys2Proof.Machine
end

