-- ==== Sys2Proof/Machine/Operands.lean ====
section
/-! DEFINITION. Operand forms: how `s` and `d` are read, the exact sum that becomes the reference, and the exact delta. -/

namespace Sys2Proof.Machine

/-- An operand read as a non-negative integer, `zext` (30_encoding.md R63). -/
def operand (x : Nat) : Int := (x : Int)

/-- The end of a pulse, `s + d`, exact, and held by `W_T + 1` bits (00_scope.md R8; 10_state.md R25; 42_frame_fsm.md R108). -/
def endTime (s d : Nat) : Nat := s + d

/-- `delta = zext(s) - ref`, exact as a signed integer (41_bit_encoder.md R96). -/
def delta (s : Nat) (ref : Nat) : Int := operand s - (ref : Int)

/-- The `W_T + 2` bit two's complement register in which a realisation holds the delta (41_bit_encoder.md R97). -/
def deltaBits (wT : Nat) (s : Nat) (ref : Nat) : BitVec (wT + 2) := BitVec.ofNat (wT + 2) s - BitVec.ofNat (wT + 2) ref

end Sys2Proof.Machine
end

