-- ==== Sys2Proof/Machine/Classifier.lean ====
section
/-! DEFINITION. The pulse classifier and its tolerance-window comparators (40_pulse_classifier.md). Combinational: it reads the
duration, the state and the configuration, and writes nothing (R94). -/

namespace Sys2Proof.Machine

/-- The comparator `inW(lo, hi, x)`: both bounds are inside (40_pulse_classifier.md R86). -/
abbrev inW (w : Window) (x : Int) : Prop := w.lo ≤ x ∧ x ≤ w.hi

/-- 40_pulse_classifier.md R87. -/
abbrev isStart (c : Cfg) (d : Nat) : Prop := inW c.start (operand d)

/-- 40_pulse_classifier.md R87. -/
abbrev isData (c : Cfg) (d : Nat) : Prop := inW c.data (operand d)

/-- 40_pulse_classifier.md R87. -/
abbrev isStop (c : Cfg) (d : Nat) : Prop := inW c.stop (operand d)

/-- The classifier's category (40_pulse_classifier.md R88). -/
inductive Category where
  | start
  | stop
  | data
  | invalid
  deriving DecidableEq, Repr

/-- The category function (40_pulse_classifier.md R88). -/
def cat (c : Cfg) (d : Nat) : Category :=
  if isStart c d then .start
  else if isStop c d then .stop
  else if isData c d then .data
  else .invalid

/-- The expected category of a state, `EXP(st)` (40_pulse_classifier.md R89). -/
def expected : DecState → Category
  | .awaitingStart      => .start
  | .collectingBits     => .data
  | .awaitingStop       => .stop
  | .collectingChecksum => .data

/-- Acceptance (40_pulse_classifier.md R90). -/
abbrev ok (c : Cfg) (st : DecState) (d : Nat) : Prop := cat c d = expected st

/-- The classifier's internal 2-bit output (30_encoding.md R75). -/
def Category.code : Category → BitVec 2
  | .start   => 0b00
  | .stop    => 0b01
  | .data    => 0b10
  | .invalid => 0b11

/-- The duration window of a state, the source's table of accepted ranges (40_pulse_classifier.md R91). -/
def acceptedWindow (c : Cfg) : DecState → Window
  | .awaitingStart      => c.start
  | .collectingBits     => c.data
  | .awaitingStop       => c.stop
  | .collectingChecksum => c.data

end Sys2Proof.Machine
end

