-- ==== Sys2Proof/Machine/Encoder.lean ====
section
/-! DEFINITION. The inter-pulse delta-to-bit encoder (41_bit_encoder.md). Combinational: it reads the start time, the reference
and the configuration, and writes nothing (R104). -/

namespace Sys2Proof.Machine

/-- The encoder's result (41_bit_encoder.md R99). -/
inductive EncResult where
  | bit (b : Bool)
  | invalid
  deriving DecidableEq, Repr

/-- The long gap (41_bit_encoder.md R98). -/
abbrev isZero (c : Cfg) (delta : Int) : Prop := inW c.zero delta

/-- The short gap (41_bit_encoder.md R98). -/
abbrev isOne (c : Cfg) (delta : Int) : Prop := inW c.one delta

/-- The encoder function; a delta in neither window is rejected, never defaulted (41_bit_encoder.md R99, R101). -/
def enc (c : Cfg) (delta : Int) : EncResult :=
  if isZero c delta then .bit false
  else if isOne c delta then .bit true
  else .invalid

/-- The encoder's internal output bit `ok` (30_encoding.md R76). -/
def EncResult.okBit : EncResult → Bool
  | .bit _   => true
  | .invalid => false

/-- The encoder's internal 2-bit output `{ok, bit}`: `2'b10` is bit 0, `2'b11` is bit 1. When `ok = 0` the value of `bit` is not
given, so the code is absent (30_encoding.md R76). -/
def EncResult.code : EncResult → Option (BitVec 2)
  | .bit false => some 0b10
  | .bit true  => some 0b11
  | .invalid   => none

end Sys2Proof.Machine
end

