-- ==== Sys2Proof/Machine/Flags.lean ====
section
/-! DEFINITION. There are no condition codes (10_state.md R30): what stands in their place is the response status, and this file
holds its codes and the other codes of 30_encoding.md section 4. -/

namespace Sys2Proof.Machine

/-- The code of a status (30_encoding.md R71). -/
def Status.code : Status → BitVec 3
  | .accepted         => 0
  | .unexpectedSignal => 1
  | .invalidInterval  => 2
  | .completed        => 3
  | .resetDone        => 4
  | .checksumReject   => 5
  | .illegalOp        => 7

/-- The encoding of `st` (30_encoding.md R74). -/
def DecState.code : DecState → BitVec 2
  | .awaitingStart      => 0b00
  | .collectingBits     => 0b01
  | .awaitingStop       => 0b10
  | .collectingChecksum => 0b11

/-- The state a 2-bit value of `st` encodes: every value is one of the four states (10_state.md R24; 30_encoding.md R74). -/
def DecState.ofCode (b : BitVec 2) : DecState :=
  if b = 0b00 then .awaitingStart
  else if b = 0b01 then .collectingBits
  else if b = 0b10 then .awaitingStop
  else .collectingChecksum

end Sys2Proof.Machine
end

