-- ==== Sys2Proof/Machine/PacketDecoder.lean ====
section
/-! DEFINITION. The accumulator's append and its view as a bit buffer, the fixed-width packet decoder and the checksum validator
(42_frame_fsm.md R113; 43_packet_decoder.md). Combinational functions of the accumulator. -/

namespace Sys2Proof.Machine

/-- The append to the accumulator, `acc' = {acc[57:0], b}` (42_frame_fsm.md R113). -/
def appendAcc (acc : Acc) (b : Bool) : Acc := (acc.setWidth 58).concat b

/-- The abstract bit buffer: `buf[i] = acc[cnt-1-i]` for `0 <= i < cnt` (00_scope.md R10; 20_memory.md R48). -/
def bufferOf (acc : Acc) (n : Nat) : List Bool := (List.range n).map fun i => acc.getLsbD (n - 1 - i)

/-- Bit `i` of the complete buffer, at `A[58-i]` (20_memory.md R48). -/
def bufBit (A : Acc) (i : Nat) : Bool := A.getLsbD (58 - i)

/-- The value of nibble `k`, read big-endian from buffer indices `4k..4k+3`: `bit0*8 + bit1*4 + bit2*2 + bit3`
(20_memory.md R49, R51). -/
def nibble (A : Acc) (k : Nat) : Nat :=
  (bufBit A (4 * k)).toNat * 8 + (bufBit A (4 * k + 1)).toNat * 4 + (bufBit A (4 * k + 2)).toNat * 2 +
    (bufBit A (4 * k + 3)).toNat

/-- The sensor identifier, `A[46:23]` (43_packet_decoder.md R122). -/
def sensorId (A : Acc) : BitVec 24 := A.extractLsb' 23 24

/-- The raw payload, `A[22:3]` (43_packet_decoder.md R123; 20_memory.md R50). -/
def rawPayload (A : Acc) : BitVec 20 := A.extractLsb' 3 20

/-- The captured checksum bits, `A[3:0]` (43_packet_decoder.md R124). -/
def checksumBits (A : Acc) : BitVec 4 := A.extractLsb' 0 4

/-- The 55 message bits, `A[58:4]` (20_memory.md R48). -/
def messageBits (A : Acc) : BitVec 55 := A.extractLsb' 4 55

/-- The checksum validator: `NONE` passes every frame (43_packet_decoder.md R127), `PLUGGABLE f` asks `f` (R128). -/
def csCheck (m : CsMode) (A : Acc) : Bool :=
  match m with
  | .none      => true
  | .pluggable => Config.validator (messageBits A) (checksumBits A)

/-- The decode event of a complete buffer, tagged with the timestamp drawn (43_packet_decoder.md R122 to R126). -/
def decodeEvent (A : Acc) (ts : Nat) : Message where
  id  := sensorId A
  raw := rawPayload A
  cs  := checksumBits A
  ts  := ts

end Sys2Proof.Machine
end

