-- ==== Sys2Proof/Machine/Ops.lean ====
section
/-! DEFINITION. The named operations on the state that the meanings share: the writes of the pseudocode of 42_frame_fsm.md and
43_packet_decoder.md, the errors' effects that stand in place of taking an exception (60_exceptions.md R142, R146), the message
handshake, the reset pin, and the guard of 42_frame_fsm.md R106. -/

namespace Sys2Proof.Machine

namespace State

/-- `respond(code)` (00_scope.md R9; 30_encoding.md R71). -/
def respond (c : Status) (s : State) : State := { s with resp := some c }

/-- `ref <- s + d` (42_frame_fsm.md R108). -/
def setRef (t d : Nat) (s : State) : State := { s with ref := endTime t d }

/-- `st <- v`. -/
def setSt (v : DecState) (s : State) : State := { s with st := v }

/-- `(acc, cnt) <- append(acc, cnt, b)` (42_frame_fsm.md R113). -/
def append (b : Bool) (s : State) : State := { s with acc := appendAcc s.acc b, cnt := s.cnt + 1 }

/-- The full reset: "clear buffer, return to `AwaitingStart`" (00_scope.md glossary; 42_frame_fsm.md R115, R118). -/
def fullReset (s : State) : State := { s with st := .awaitingStart, cnt := 0, acc := 0 }

/-- `emit(msg)`: `mq <- msg; pend <- 1` (43_packet_decoder.md R126). -/
def emit (m : Message) (s : State) : State := { s with mq := m, pend := true }

/-- The host takes the decode event: `pend <- 0`, and `mq` keeps its value (43_packet_decoder.md R129). -/
def takeEvent (s : State) : State := { s with pend := false }

/-- The reset pin: every state element takes its value of 10_state.md R39, and no response is produced
(70_reset_and_hazards.md R161). The configuration and the pins are no state elements. -/
def resetPin (s : State) : State :=
  { s with st := .awaitingStart, cnt := 0, acc := 0, ref := 0, pend := false, mq := ⟨0, 0, 0, 0⟩, resp := none }

/-- The bit buffer (00_scope.md R10). -/
def buf (s : State) : List Bool := bufferOf s.acc s.cnt.toNat

end State

/-! ## The errors, in place of taking an exception and returning from it (60_exceptions.md R141, R142, R146, R147)

Nothing is saved, no mode changes and there is no return: an error's whole effect is below. -/

/-- UnexpectedSignal: "log and continue" (42_frame_fsm.md R114). -/
def unexpectedSignal (t d : Nat) (s : State) : State := (s.setRef t d).respond .unexpectedSignal

/-- InvalidInterval: "log and perform a full reset" (42_frame_fsm.md R115). -/
def invalidInterval (t d : Nat) (s : State) : State := (s.fullReset.setRef t d).respond .invalidInterval

/-- The end of a frame, `complete(A, ts)`, where `ts` is the level of `now` at this edge (43_packet_decoder.md R125 to R128). -/
def complete (A : Acc) (s : State) : State :=
  if csCheck s.cfg.csMode A then (s.fullReset.emit (decodeEvent A s.now)).respond .completed
  else s.fullReset.respond .checksumReject

/-! ## The guard of a command -/

/-- The checks a model makes of a state before it gives an edge or a command a meaning: the configuration (00_scope.md R6), the
count's range (93_implementation_defined.md S7), the registers' widths (10_state.md R21) and the invariants
(42_frame_fsm.md R106). The order is entry 8. -/
def ifLegal (s : State) (k : Host.Outcome State Fault Refusal) : Host.Outcome State Fault Refusal :=
  if ¬ s.cfg.wf then .refused .illFormedConfig
  else if 60 ≤ s.cnt.toNat then .fault .countOutOfRange
  else if ¬ s.Fits then .refused .registerOutOfRange
  else if ¬ s.Inv then .refused .outsideInvariants
  else k

/-- An accepted command with the fields `t`, `d` and effect `f`: performed in one step from a legal state with `pend = 0`
(42_frame_fsm.md R106; 00_scope.md R12); fields that no command can express are refused (30_encoding.md R63). -/
def command (t d : Nat) (s : State) (f : State → State) : Host.Outcome State Fault Refusal :=
  ifLegal s (
    if ¬ (t < 2 ^ s.cfg.wT ∧ d < 2 ^ s.cfg.wT) then .refused .operandOutOfRange
    else if s.pend then .refused .inputNotReady
    else .next (f s))

end Sys2Proof.Machine
end

