-- ==== Sys2Proof/Machine/Control.lean ====
section
/-! DEFINITION. RESET (42_frame_fsm.md R118) and the reserved op codes (42_frame_fsm.md R119). -/

namespace Sys2Proof.Machine

/-- RESET: the fields `s` and `d` are ignored; `ref`, `pend` and `mq` are unchanged (42_frame_fsm.md R118; 30_encoding.md R65). -/
def execReset (t d : Nat) (s : State) : Host.Outcome State Fault Refusal :=
  command t d s fun s => s.fullReset.respond .resetDone

/-- A reserved op code: no state changes, and the response is ILLEGAL_OP (42_frame_fsm.md R119; 30_encoding.md R66). -/
def execIllegalOp (_low : Bool) (t d : Nat) (s : State) : Host.Outcome State Fault Refusal :=
  command t d s fun s => s.respond .illegalOp

end Sys2Proof.Machine
end

