-- ==== Sys2Proof/Machine/Pulse.lean ====
section
/-! DEFINITION. PULSE: the frame state machine of 42_frame_fsm.md R107 and its sub-rules R109 to R115. -/

namespace Sys2Proof.Machine

/-- A start pulse in AwaitingStart (42_frame_fsm.md R109). -/
def pulseStart (t d : Nat) (s : State) : State := ((s.setRef t d).setSt .collectingBits).respond .accepted

/-- A data pulse in CollectingBits that carries `b` (42_frame_fsm.md R110): the count after the append decides the move. -/
def pulseData (t d : Nat) (b : Bool) (s : State) : State :=
  let s' := (s.append b).setRef t d
  if s'.cnt.toNat = Config.maxMsgBits - 1 then (s'.setSt .awaitingStop).respond .accepted
  else s'.respond .accepted

/-- A stop pulse in AwaitingStop that carries `b` (42_frame_fsm.md R111). -/
def pulseStop (t d : Nat) (b : Bool) (s : State) : State :=
  (((s.append b).setRef t d).setSt .collectingChecksum).respond .accepted

/-- A checksum data pulse in CollectingChecksum that carries `b` (42_frame_fsm.md R112): the 59th bit completes the frame, and
the decode reads the buffer with that bit appended. -/
def pulseChecksum (t d : Nat) (b : Bool) (s : State) : State :=
  let s' := (s.append b).setRef t d
  if s'.cnt.toNat < Config.maxBits then s'.respond .accepted
  else complete s'.acc s'

/-- The encoder is consulted, and its bit is used by `k` (42_frame_fsm.md R107, R115; 41_bit_encoder.md R102). -/
def withBit (t d : Nat) (k : Bool → State → State) (s : State) : State :=
  match enc s.cfg (delta t s.ref) with
  | .invalid => invalidInterval t d s
  | .bit b   => k b s

/-- The effect of PULSE (42_frame_fsm.md R107), in the order of 60_exceptions.md R144. -/
def pulse (t d : Nat) (s : State) : State :=
  if ¬ ok s.cfg s.st d then unexpectedSignal t d s
  else match s.st with
    | .awaitingStart      => pulseStart t d s
    | .collectingBits     => withBit t d (pulseData t d) s
    | .awaitingStop       => withBit t d (pulseStop t d) s
    | .collectingChecksum => withBit t d (pulseChecksum t d) s

/-- PULSE `t, d` (42_frame_fsm.md R107). -/
def execPulse (t d : Nat) (s : State) : Host.Outcome State Fault Refusal := command t d s (pulse t d)

end Sys2Proof.Machine
end

