-- ==== Sys2Proof/Machine/Dispatch.lean ====
section
/-! DEFINITION. Command dispatch (42_frame_fsm.md R106): one arm per constructor of `Instr`. -/

namespace Sys2Proof.Machine

/-- The step of one accepted command (42_frame_fsm.md R106; 00_scope.md R11). -/
def exec (i : Instr) (s : State) : Host.Outcome State Fault Refusal :=
  match i with
  | .pulse t d => Sys2Proof.Machine.execPulse t d s
  | .reset t d => Sys2Proof.Machine.execReset t d s
  | .illegalOp low t d => Sys2Proof.Machine.execIllegalOp low t d s

end Sys2Proof.Machine
end

