-- ==== Sys2Proof/Machine/Ports.lean ====
section
/-! DEFINITION. The ports: one rising clock edge (30_encoding.md R68 to R70, R81; 43_packet_decoder.md R129;
60_exceptions.md R145; 70_reset_and_hazards.md R161), and the outputs between edges. -/

namespace Sys2Proof.Machine

namespace PortIn

/-- The command word on the input port (30_encoding.md R62, R68). -/
def word (wT : Nat) (p : PortIn) : Nat := wordOf wT p.inOp p.inS p.inD

/-- The host offers the command word `w` and nothing else; `now` reads `t`. -/
def offer (wT : Nat) (w : Nat) (t : Nat) : PortIn where
  rst := false
  inValid := true
  inOp := opField wT w
  inS := sField wT w
  inD := dField wT w
  msgReady := false
  now := t

/-- The host drives nothing; `now` reads `t`. -/
def idle (t : Nat) : PortIn where
  rst := false
  inValid := false
  inOp := 0
  inS := 0
  inD := 0
  msgReady := false
  now := t

/-- The host is ready for a decode event. -/
def ready (t : Nat) : PortIn := { idle t with msgReady := true }

/-- The host asserts the reset pin. -/
def assertRst (t : Nat) : PortIn := { idle t with rst := true }

end PortIn

/-- `in_ready = 1` exactly when `pend = 0` and `rst = 0` (30_encoding.md R68). -/
def inReady (s : State) (rst : Bool) : Bool := !s.pend && !rst

/-- A command is accepted at this edge (30_encoding.md R68). -/
def accepts (s : State) (p : PortIn) : Bool := p.inValid && inReady s p.rst

/-- The host takes the decode event at this edge (30_encoding.md R70); reset wins over it (70_reset_and_hazards.md R161). -/
def handshake (s : State) (p : PortIn) : Bool := s.pend && p.msgReady && !p.rst

/-- The pins at the coming edge. When the host's list is used up it drives nothing (60_exceptions.md R154; entry 2). -/
def pinsOf (s : State) : PortIn := s.inputs.headD (PortIn.idle s.now)

/-- The state as an edge finds it: the pins are sampled, and the response of the edge before has been shown for its one cycle
(30_encoding.md R69). -/
def sampled (s : State) : State := { s with inputs := s.inputs.tail, now := (pinsOf s).now, resp := none }

/-- One rising edge with the pins `p`: the reset pin wins; with `pend = 0` an offered command is accepted and performed; with
`pend = 1` the host may take the event; in every other case nothing advances (60_exceptions.md R145, R150, R154). The reset
edge checks the configuration and the pins only (entries 10, 16). -/
def clockEdge (p : PortIn) (s : State) : Host.Outcome State Fault Refusal :=
  if ¬ s.cfg.wf then .refused .illFormedConfig
  else if ¬ p.Fits s.cfg then .refused .pinOutOfRange
  else if p.rst then .next s.resetPin
  else if accepts s p then exec (decode s.cfg.wT (p.word s.cfg.wT)) s
  else if handshake s p then ifLegal s (.next s.takeEvent)
  else ifLegal s (.next s)

/-- Everything the outputs show between edges. A field that shows no defined value is absent: `res_status` while `res_valid = 0`
(30_encoding.md R69), and the message data while `pend = 0` (10_state.md R29). -/
structure PortOut where
  inReady   : Bool
  resValid  : Bool
  resStatus : Option (BitVec 3)
  msgValid  : Bool
  msg       : Option Message
  dbgSt     : BitVec 2
  dbgCnt    : BitVec 6
  dbgAcc    : BitVec 59
  dbgRef    : Nat
  dbgPend   : Bool
  deriving DecidableEq, Repr

/-- The outputs (30_encoding.md R68 to R70, R81; 60_exceptions.md R152), given the level of `rst`, which `in_ready` reads. -/
def outputs (rst : Bool) (s : State) : PortOut where
  inReady   := inReady s rst
  resValid  := s.resp.isSome
  resStatus := s.resp.map Status.code
  msgValid  := s.pend
  msg       := if s.pend then some s.mq else none
  dbgSt     := s.st.code
  dbgCnt    := s.cnt
  dbgAcc    := s.acc
  dbgRef    := s.ref
  dbgPend   := s.pend

/-- The state in which the very next edge accepts the command whose bits are `w`: no event is pending, and the host offers the
word (entry 12). -/
def offering (s : State) (nbits w : Nat) : State :=
  { s with pend := false, inputs := PortIn.offer s.cfg.wT (w % 2 ^ nbits) s.now :: s.inputs }

end Sys2Proof.Machine
end

