-- ==== Sys2Proof/Machine/Step.lean ====
section
/-! DEFINITION. One step: one rising clock edge, at which at most one command is accepted (00_scope.md R11; entry 1). -/

namespace Sys2Proof.Machine

/-- The host's pins for the next edge are sampled, and the edge is taken. -/
def step (s : State) : Host.Outcome State Fault Refusal := clockEdge (pinsOf s) (sampled s)

/-- The command whose bits are `w` is offered at the next edge (entry 12). -/
def State.withFetchWord (s : State) (nbits w : Nat) : State := offering s nbits w

end Sys2Proof.Machine
end

