-- ==== Sys2Proof/Machine/Assembler.lean ====
section
/-! DEFINITION. The textual command syntax and its pseudo-instructions (30_encoding.md R77 to R79): from lines of text to
commands, at any operand width. A tool of the host, not hardware. -/

namespace Sys2Proof.Machine

/-- A line of the text syntax after parsing (30_encoding.md R77, R78). A JSON pair line is the same as a PULSE line. -/
inductive Line where
  | blank
  | pulse (s d : Nat)
  | reset
  | op (n s d : Nat)
  | start (t : Nat)
  | bit0
  | bit1
  | dbit (delta : Nat)
  | stop0
  | stop1
  | noise (delta w : Nat)
  | frame (t : Nat) (bits : List Bool)
  deriving DecidableEq, Repr

/-- Why the assembler refuses a line (30_encoding.md R79). -/
inductive LineError where
  /-- The line does not parse. Safe. -/
  | unparsable
  /-- An operand, or one of an expansion, is outside `[0, 2^W_T - 1]`, or an op code is outside 0..3. Safe. -/
  | outOfRange
  /-- A pseudo-instruction measures from the cursor and no pulse has been emitted yet (DESIGN CHOICE, entry 13). Safe. -/
  | noCursor
  deriving DecidableEq, Repr

/-- A refusal names the line, the first line being 1 (30_encoding.md R79). -/
structure AsmError where
  line : Nat
  why  : LineError
  deriving DecidableEq, Repr

/-! ## Expansion -/

/-- The pulse that carries bit `b`, `w` long, measured from the cursor: delta 270 for 0 and 120 for 1 (30_encoding.md R78). -/
def bitPulse (T : Nat) (b : Bool) (w : Nat) : Nat × Nat := (T + (if b then 120 else 270), w)

/-- The pulses of a frame's bits from buffer index `i` on: index 54 is the stop pulse (30_encoding.md R78). -/
def framePulses (T i : Nat) : List Bool → List (Nat × Nat)
  | []      => []
  | b :: bs =>
    let p := bitPulse T b (if i = 54 then 500 else 100)
    p :: framePulses (p.1 + p.2) (i + 1) bs

/-- The integer operands of the pulses of a line that expands to PULSE commands, measured from the cursor `T`
(30_encoding.md R78). -/
def pulsesOf (T : Nat) : Line → List (Nat × Nat)
  | .pulse s d     => [(s, d)]
  | .start t       => [(t, 1000)]
  | .bit0          => [bitPulse T false 100]
  | .bit1          => [bitPulse T true 100]
  | .dbit delta    => [(T + delta, 100)]
  | .stop0         => [bitPulse T false 500]
  | .stop1         => [bitPulse T true 500]
  | .noise delta w => [(T + delta, w)]
  | .frame t bits  => (t, 1000) :: framePulses (t + 1000) 0 bits
  | .blank         => []
  | .reset         => []
  | .op _ _ _      => []

/-- The line measures from the cursor. -/
def Line.needsCursor : Line → Bool
  | .bit0 | .bit1 | .dbit _ | .stop0 | .stop1 | .noise _ _ => true
  | .blank | .pulse _ _ | .reset | .op _ _ _ | .start _ | .frame _ _ => false

/-- PULSE commands for integer operands, each in range (30_encoding.md R79). -/
def pulseInstrs (wT : Nat) : List (Nat × Nat) → Option (List Instr)
  | []      => some []
  | p :: ps =>
    if p.1 < 2 ^ wT ∧ p.2 < 2 ^ wT then (pulseInstrs wT ps).map (Instr.pulse p.1 p.2 :: ·)
    else none

/-- The cursor after pulses: the end of the last one emitted (30_encoding.md R78). -/
def cursorAfter (T : Option Nat) (ps : List (Nat × Nat)) : Option Nat :=
  match ps.getLast? with
  | none   => T
  | some p => some (p.1 + p.2)

/-- The commands of one line and the cursor after it (30_encoding.md R77 to R79). -/
def expandLine (wT : Nat) (T : Option Nat) (l : Line) : Except LineError (List Instr × Option Nat) :=
  match l with
  | .blank    => .ok ([], T)
  | .reset    => .ok ([.reset 0 0], T)
  | .op n s d =>
    if n < 4 ∧ s < 2 ^ wT ∧ d < 2 ^ wT then
      .ok ([decodeFields (BitVec.ofNat 2 n) s d], if n = 0 then some (s + d) else T)
    else .error .outOfRange
  | l =>
    if l.needsCursor ∧ T = none then .error .noCursor
    else
      let ps := pulsesOf (T.getD 0) l
      match pulseInstrs wT ps with
      | none    => .error .outOfRange
      | some is => .ok (is, cursorAfter T ps)

/-! ## Parsing -/

/-- A blank character (DESIGN CHOICE: space and tab, entry 13). -/
def isBlank (c : Char) : Bool := c = ' ' || c = '\t'

/-- A line without its comment, which `;` starts (30_encoding.md R77). -/
def stripComment (cs : List Char) : List Char := cs.takeWhile (· ≠ ';')

/-- Without leading and trailing blanks. -/
def trim (cs : List Char) : List Char := ((cs.dropWhile isBlank).reverse.dropWhile isBlank).reverse

/-- The fields between commas. -/
def splitComma : List Char → List (List Char)
  | []      => [[]]
  | c :: cs =>
    match splitComma cs with
    | []      => [[c]]
    | f :: fs => if c = ',' then [] :: f :: fs else (c :: f) :: fs

/-- The value of a digit in a base up to 16. -/
def digitValue (base : Nat) (c : Char) : Option Nat :=
  let n := c.toNat
  let v := if 48 ≤ n ∧ n ≤ 57 then n - 48
    else if 97 ≤ n ∧ n ≤ 102 then n - 87
    else if 65 ≤ n ∧ n ≤ 70 then n - 55
    else 16
  if v < base then some v else none

/-- The value of a string of digits after the value `acc`. -/
def digitsValue (base acc : Nat) : List Char → Option Nat
  | []      => some acc
  | c :: cs =>
    match digitValue base c with
    | none   => none
    | some v => digitsValue base (acc * base + v) cs

/-- A number: decimal, or hexadecimal with a `0x` prefix (30_encoding.md R79). -/
def parseNumber : List Char → Option Nat
  | []                    => none
  | '0' :: 'x' :: c :: cs => digitsValue 16 0 (c :: cs)
  | c :: cs               => digitsValue 10 0 (c :: cs)

/-- The numbers between commas, blanks around each dropped. -/
def parseNumbers (cs : List Char) : Option (List Nat) := ((splitComma cs).map fun f => parseNumber (trim f)).mapM id

/-- The bits of a FRAME: 59 characters `0` or `1`, with spaces inside the string ignored (30_encoding.md R78). A tab inside it is
refused, since R78 names spaces only; around it both are blanks (DESIGN CHOICE, entry 13). -/
def parseBits (cs : List Char) : Option (List Bool) :=
  let cs := (trim cs).filter (· ≠ ' ')
  if cs.length = 59 ∧ cs.all (fun c => c = '0' || c = '1') then some (cs.map (· = '1')) else none

/-- A line of text; `none` where it does not parse (30_encoding.md R77 to R79). -/
def parseLine (text : List Char) : Option Line :=
  let cs := trim (stripComment text)
  match cs with
  | []        => some .blank
  | '[' :: cs =>
    match cs.reverse with
    | ']' :: inner =>
      match parseNumbers inner.reverse with
      | some [s, d] => some (.pulse s d)
      | _           => none
    | _ => none
  | cs =>
    let name := cs.takeWhile (!isBlank ·)
    let rest := trim (cs.dropWhile (!isBlank ·))
    if name = ['F', 'R', 'A', 'M', 'E'] then
      match splitComma rest with
      | [t, bits] =>
        match parseNumber (trim t), parseBits bits with
        | some t, some bits => some (.frame t bits)
        | _, _              => none
      | _ => none
    else if rest = [] then
      if name = ['R', 'E', 'S', 'E', 'T'] then some .reset
      else if name = ['B', 'I', 'T', '0'] then some .bit0
      else if name = ['B', 'I', 'T', '1'] then some .bit1
      else if name = ['S', 'T', 'O', 'P', '0'] then some .stop0
      else if name = ['S', 'T', 'O', 'P', '1'] then some .stop1
      else none
    else
      match parseNumbers rest with
      | some [t] =>
        if name = ['S', 'T', 'A', 'R', 'T'] then some (.start t)
        else if name = ['D', 'B', 'I', 'T'] then some (.dbit t)
        else none
      | some [s, d] =>
        if name = ['P', 'U', 'L', 'S', 'E'] then some (.pulse s d)
        else if name = ['N', 'O', 'I', 'S', 'E'] then some (.noise s d)
        else none
      | some [n, s, d] => if name = ['.', 'o', 'p'] then some (.op n s d) else none
      | _ => none

/-! ## Assembly -/

/-- The commands of the lines from number `n` on, with the cursor `T` before them. The first refused line ends the assembly: it
gives its refusal alone, without commands for the lines before it and without looking at later lines (DESIGN CHOICE, entry 13). -/
def assembleFrom (wT n : Nat) (T : Option Nat) : List (List Char) → Except AsmError (List Instr)
  | []            => .ok []
  | text :: texts =>
    match parseLine text with
    | none   => .error ⟨n, .unparsable⟩
    | some l =>
      match expandLine wT T l with
      | .error e     => .error ⟨n, e⟩
      | .ok (is, T') =>
        match assembleFrom wT (n + 1) T' texts with
        | .error e => .error e
        | .ok js   => .ok (is ++ js)

/-- The commands of a text, one command or pseudo-instruction per line (30_encoding.md R77 to R79). -/
def assemble (wT : Nat) (texts : List (List Char)) : Except AsmError (List Instr) := assembleFrom wT 1 none texts

end Sys2Proof.Machine
end

