-- ==== Sys2Proof/Machine/Instances.lean ====
section
/-! DEFINITION. Several WSD-CORE instances (60_exceptions.md R151): each has its own copy of all the state, and they share
nothing. -/

namespace Sys2Proof.Machine

/-- One step of instance `k` of a list of instances; every other instance keeps its state. An instance number that no instance
has changes nothing (entry 15). -/
def stepInstance (k : Nat) (b : List State) : Host.Outcome (List State) Fault Refusal :=
  match b[k]? with
  | none => .next b
  | some s =>
    match step s with
    | .next s'   => .next (b.set k s')
    | .fault f   => .fault f
    | .refused r => .refused r

end Sys2Proof.Machine
end

