-- ==== Sys2Proof/Machine/Render.lean ====
section
/-! DEFINITION. How the host reads a decode event: the identifier as hex digits and the raw payload as tuples
(43_packet_decoder.md R130, R131). Host functions, not hardware. -/

namespace Sys2Proof.Machine

/-- The hex digit of a nibble. The alphabet `0123456789abcdef` is PRESUMED (entry 14): the spec marks it general knowledge. -/
def hexDigit (n : BitVec 4) : Char := Char.ofNat (if n.toNat < 10 then 48 + n.toNat else 87 + n.toNat)

/-- The identifier as six hex digits, most significant nibble first (43_packet_decoder.md R130). -/
def renderId (id : BitVec 24) : List Char := [20, 16, 12, 8, 4, 0].map fun p => hexDigit (id.extractLsb' p 4)

/-- The value of a string of hex digits, most significant first, in the alphabet of `hexDigit`. -/
def hexValue (cs : List Char) : Nat :=
  cs.foldl (fun n c => n * 16 + (if c.toNat < 58 then c.toNat - 48 else c.toNat - 87)) 0

/-- Raw group `j` as the source's 4-tuple `(raw[19-4j], raw[18-4j], raw[17-4j], raw[16-4j])` (43_packet_decoder.md R131). -/
def rawTuple (raw : BitVec 20) (j : Nat) : Bool × Bool × Bool × Bool :=
  (raw.getLsbD (19 - 4 * j), raw.getLsbD (18 - 4 * j), raw.getLsbD (17 - 4 * j), raw.getLsbD (16 - 4 * j))

/-- The ordered list of the raw groups (43_packet_decoder.md R131). -/
def rawTuples (raw : BitVec 20) : List (Bool × Bool × Bool × Bool) := (List.range Config.rawGroups).map (rawTuple raw)

end Sys2Proof.Machine
end

