-- ==== Sys2Proof/Safety.lean ====
section
/-! DEFINITION. What the claims are stated in: the states from which a command is performed, runs of commands and their
responses, the progress of a frame, and states compared without their timestamps. -/

namespace Sys2Proof.Machine

namespace State

/-- The states on which the step is defined (00_scope.md R6; 10_state.md R21; 42_frame_fsm.md R106). -/
abbrev Legal (s : State) : Prop := s.cfg.wf ∧ s.Fits ∧ s.Inv

/-- The states in which a command is performed: legal, with no event pending (42_frame_fsm.md R106). -/
abbrev Ready (s : State) : Prop := s.Legal ∧ s.pend = false

/-- The states in which the command `i` is performed: ready, and `i` can be expressed at the width (30_encoding.md R63). -/
abbrev ReadyFor (s : State) (i : Instr) : Prop := s.Ready ∧ i.wf s.cfg.wT

/-- The state of 10_state.md R21, without the model's own fields. -/
def arch (s : State) : DecState × Count × Acc × Nat × Bool × Message := (s.st, s.cnt, s.acc, s.ref, s.pend, s.mq)

/-- How many classified-and-encoded pulses of the current frame have been taken (42_frame_fsm.md R120): the start pulse and one
per bit. -/
def progress (s : State) : Nat :=
  match s.st with
  | .awaitingStart => 0
  | .collectingBits => s.cnt.toNat + 1
  | .awaitingStop => s.cnt.toNat + 1
  | .collectingChecksum => s.cnt.toNat + 1

/-- The state with every timestamp blanked: the message's, the pin's and those of the pin samples to come. -/
def blankStamps (s : State) : State :=
  { s with mq := { s.mq with ts := 0 }, now := 0, inputs := s.inputs.map fun p => { p with now := 0 } }

/-- Every timestamp, held or on the pins to come, fits its width (43_packet_decoder.md R125). -/
def StampsFit (s : State) : Prop :=
  s.mq.ts < 2 ^ s.cfg.wTS ∧ s.now < 2 ^ s.cfg.wTS ∧ ∀ p ∈ s.inputs, p.now < 2 ^ s.cfg.wTS

end State

/-- `(acc << 1) | b` truncated to 59 bits (42_frame_fsm.md R113). -/
def shiftIn (acc : Acc) (b : Bool) : Acc := (acc <<< 1) ||| BitVec.ofNat 59 b.toNat

/-- The lines that FRAME stands for: START, then BIT or STOP lines, STOP at buffer index 54 (30_encoding.md R78). -/
def frameLines (t : Nat) (bits : List Bool) : List Line :=
  .start t :: bits.mapIdx fun i b =>
    if i = 54 then (if b then .stop1 else .stop0) else (if b then .bit1 else .bit0)

/-- The commands of lines one after the other and the cursor after them; the first refused line refuses all. -/
def expandAll (wT : Nat) : Option Nat → List Line → Except LineError (List Instr × Option Nat)
  | T, []      => .ok ([], T)
  | T, l :: ls =>
    match expandLine wT T l with
    | .error e     => .error e
    | .ok (is, T') =>
      match expandAll wT T' ls with
      | .error e      => .error e
      | .ok (js, T'') => .ok (is ++ js, T'')

/-- A run of commands, each accepted in turn, stopping at the first fault or refusal. -/
def execAll : List Instr → State → Host.Outcome State Fault Refusal
  | [], s => .next s
  | i :: is, s =>
    match exec i s with
    | .next s' => execAll is s'
    | .fault f => .fault f
    | .refused r => .refused r

/-- `k` steps, stopping at the first fault or refusal. -/
def runSteps : Nat → State → Host.Outcome State Fault Refusal
  | 0, s => .next s
  | k + 1, s =>
    match step s with
    | .next s' => runSteps k s'
    | .fault f => .fault f
    | .refused r => .refused r

/-- The responses of a run of commands and the state after it; absent if the run stops. -/
def responses : List Instr → State → Option (List Status × State)
  | [], s => some ([], s)
  | i :: is, s =>
    match exec i s with
    | .next s' =>
      match s'.resp, responses is s' with
      | some c, some (cs, t) => some (c :: cs, t)
      | _, _ => none
    | .fault _ => none
    | .refused _ => none

/-- A function of the next state, stops kept as they are. -/
def mapNext (f : State → State) : Host.Outcome State Fault Refusal → Host.Outcome State Fault Refusal
  | .next s => .next (f s)
  | .fault r => .fault r
  | .refused r => .refused r

end Sys2Proof.Machine
end

