-- ==== Sys2Proof/Certificates/Slice0/Obligations.lean ====
section
/-! DEFINITION. The statements for the provers. Each docstring names the rule of spec/ it formalises. -/

open Sys2Proof Sys2Proof.Machine

/-! ## Encoding -/

/-- Decode and encode agree at every operand width, on all commands the width can express and on all words of its length, so no
bit of a word is dropped (30_encoding.md R62, R64 to R66). -/
def Obligations.DecodeEncodeAgree : Prop :=
  ∀ wT : Nat,
    (∀ i : Instr, i.wf wT → decode wT (encode wT i) = i ∧ encode wT i < 2 ^ (2 * wT + 2)) ∧
    ∀ w, w < 2 ^ (2 * wT + 2) → encode wT (decode wT w) = w ∧ (decode wT w).wf wT

/-- The op code map on the fields of the word: `op` in bits `[2*W_T+1 : 2*W_T]`, `s` in `[2*W_T-1 : W_T]`, `d` in `[W_T-1 : 0]`; at
the instance's width `[65:64]`, `[63:32]`, `[31:0]` (30_encoding.md R62, R64). -/
def Obligations.OpCodeSelectsCommand : Prop :=
  (∀ wT w : Nat,
    (w / 2 ^ (2 * wT) % 4 = 0 → decode wT w = .pulse (w / 2 ^ wT % 2 ^ wT) (w % 2 ^ wT)) ∧
    (w / 2 ^ (2 * wT) % 4 = 1 → decode wT w = .reset (w / 2 ^ wT % 2 ^ wT) (w % 2 ^ wT)) ∧
    (w / 2 ^ (2 * wT) % 4 = 2 → decode wT w = .illegalOp false (w / 2 ^ wT % 2 ^ wT) (w % 2 ^ wT)) ∧
    (w / 2 ^ (2 * wT) % 4 = 3 → decode wT w = .illegalOp true (w / 2 ^ wT % 2 ^ wT) (w % 2 ^ wT))) ∧
  ∀ w : BitVec 66,
    decode 32 w.toNat = decodeFields (w.extractLsb' 64 2) (w.extractLsb' 32 32).toNat (w.extractLsb' 0 32).toNat

/-- Words written out from opcode_table.json and 95_test_vectors.md decode to their commands. -/
def Obligations.SampleWordsDecode : Prop :=
  decode 32 0x000000000000003e8 = .pulse 0 1000 ∧
  decode 32 0x000001388000002bb = .pulse 5000 699 ∧
  decode 32 0x10000000000000000 = .reset 0 0 ∧
  decode 32 0x1123456789abcdef0 = .reset 0x12345678 0x9abcdef0 ∧
  decode 32 0x20000000000000000 = .illegalOp false 0 0 ∧
  decode 32 0x30000000500000007 = .illegalOp true 5 7

/-- The command format has one fixed length: a number of `2*W_T + 2` bits is a command word, and any other is refused by name
(30_encoding.md R62, R67). -/
def Obligations.OneFixedLength : Prop :=
  (∀ wT w : Nat,
    (w < 2 ^ (2 * wT + 2) → decodeNat wT w = .ok (decode wT w)) ∧
    (2 ^ (2 * wT + 2) ≤ w → decodeNat wT w = .error .wordTooWide)) ∧
  ∀ w : Nat, w < 2 ^ 66 → decodeTableWord 72 w = some (decode 32 w)

/-- The status codes are those of 30_encoding.md R71, no two statuses share one, and code 6 is never produced (R72). -/
def Obligations.StatusCodesDistinctAndNeverSix : Prop :=
  (∀ a b : Status, a.code = b.code → a = b) ∧ (∀ a : Status, a.code ≠ 6) ∧
  Status.accepted.code = 0 ∧ Status.unexpectedSignal.code = 1 ∧ Status.invalidInterval.code = 2 ∧
  Status.completed.code = 3 ∧ Status.resetDone.code = 4 ∧ Status.checksumReject.code = 5 ∧ Status.illegalOp.code = 7

/-- The encoding of `st`: every 2-bit value is one of the four states (10_state.md R24; 30_encoding.md R74). -/
def Obligations.StateCodesAreAllAssigned : Prop :=
  (∀ b : BitVec 2, (DecState.ofCode b).code = b) ∧ (∀ st : DecState, DecState.ofCode st.code = st) ∧
  DecState.awaitingStart.code = 0b00#2 ∧ DecState.collectingBits.code = 0b01#2 ∧
  DecState.awaitingStop.code = 0b10#2 ∧ DecState.collectingChecksum.code = 0b11#2

/-! ## Classifier and bit encoder -/

/-- The configuration of the instance passes every check of 00_scope.md R6, with the validator plugged in or not. -/
def Obligations.InstanceConfigurationWellFormed : Prop := wsdCore.wf ∧ wsdCorePluggable.wf

/-- Acceptance is membership in the state's window, for every well-formed configuration; with the instance's windows it is the
source's table (40_pulse_classifier.md R91). -/
def Obligations.AcceptanceIsWindowMembership : Prop :=
  (∀ (c : Cfg) (st : DecState) (d : Nat), c.wf →
    (ok c st d ↔ ((acceptedWindow c st).lo ≤ (d : Int) ∧ (d : Int) ≤ (acceptedWindow c st).hi))) ∧
  ∀ d : Nat,
    (ok wsdCore .awaitingStart d ↔ 700 ≤ d ∧ d ≤ 1200) ∧
    (ok wsdCore .collectingBits d ↔ 65 ≤ d ∧ d ≤ 150) ∧
    (ok wsdCore .awaitingStop d ↔ 400 ≤ d ∧ d ≤ 500) ∧
    (ok wsdCore .collectingChecksum d ↔ 65 ≤ d ∧ d ≤ 150)

/-- At most one comparator is true of any duration, for every well-formed configuration (40_pulse_classifier.md R87). -/
def Obligations.AtMostOneComparator : Prop :=
  ∀ (c : Cfg) (d : Nat), c.wf →
    ¬ (isStart c d ∧ isStop c d) ∧ ¬ (isStart c d ∧ isData c d) ∧ ¬ (isStop c d ∧ isData c d)

/-- The category of every duration with the instance's windows (40_pulse_classifier.md R88, R93). -/
def Obligations.CategoryOfEveryDuration : Prop :=
  ∀ d : Nat,
    (cat wsdCore d = .start ↔ 700 ≤ d ∧ d ≤ 1200) ∧
    (cat wsdCore d = .stop ↔ 400 ≤ d ∧ d ≤ 500) ∧
    (cat wsdCore d = .data ↔ 65 ≤ d ∧ d ≤ 150) ∧
    (cat wsdCore d = .invalid ↔
      d ≤ 64 ∨ (151 ≤ d ∧ d ≤ 399) ∨ (501 ≤ d ∧ d ≤ 699) ∨ 1201 ≤ d)

/-- The bit of every delta: for every well-formed configuration each window gives its bit and everything else is Invalid; with
the instance's windows the bounds are the source's (41_bit_encoder.md R98, R99, R101). -/
def Obligations.BitOfEveryDelta : Prop :=
  (∀ (c : Cfg) (δ : Int), c.wf →
    (enc c δ = .bit false ↔ c.zero.lo ≤ δ ∧ δ ≤ c.zero.hi) ∧
    (enc c δ = .bit true ↔ c.one.lo ≤ δ ∧ δ ≤ c.one.hi) ∧
    (enc c δ = .invalid ↔ ¬ (c.zero.lo ≤ δ ∧ δ ≤ c.zero.hi) ∧ ¬ (c.one.lo ≤ δ ∧ δ ≤ c.one.hi))) ∧
  ∀ δ : Int,
    (enc wsdCore δ = .bit false ↔ 200 ≤ δ ∧ δ ≤ 340) ∧
    (enc wsdCore δ = .bit true ↔ 60 ≤ δ ∧ δ ≤ 190) ∧
    (enc wsdCore δ = .invalid ↔ δ < 60 ∨ (191 ≤ δ ∧ δ ≤ 199) ∨ 340 < δ)

/-- The delta is exact, and its register of `W_T + 2` bits holds it, at every operand width (41_bit_encoder.md R97). -/
def Obligations.DeltaFitsItsRegister : Prop :=
  ∀ wT t r : Nat, t < 2 ^ wT → r ≤ 2 ^ (wT + 1) - 2 →
    delta t r = (t : Int) - r ∧
    -(2 ^ (wT + 1) - 2) ≤ delta t r ∧ delta t r ≤ 2 ^ wT - 1 ∧ (deltaBits wT t r).toInt = delta t r

/-! ## PULSE: one statement per row of the transition table -/

/-- Every PULSE writes `ref <- s + d` exactly, whatever its outcome; RESET and the reserved op codes do not write `ref`
(42_frame_fsm.md R108). -/
def Obligations.EveryPulseMovesReference : Prop :=
  ∀ (s : State) (t d : Nat),
    (s.ReadyFor (.pulse t d) → ∃ s', exec (.pulse t d) s = .next s' ∧ s'.ref = t + d) ∧
    (s.ReadyFor (.reset t d) → ∃ s', exec (.reset t d) s = .next s' ∧ s'.ref = s.ref) ∧
    ∀ low : Bool, s.ReadyFor (.illegalOp low t d) → ∃ s', exec (.illegalOp low t d) s = .next s' ∧ s'.ref = s.ref

/-- UnexpectedSignal: only `ref` and the response change (42_frame_fsm.md R114). -/
def Obligations.UnexpectedSignalMovesOnlyReference : Prop :=
  ∀ (s : State) (t d : Nat), s.ReadyFor (.pulse t d) → ¬ ok s.cfg s.st d →
    exec (.pulse t d) s = .next { s with ref := t + d, resp := some .unexpectedSignal }

/-- A start pulse in AwaitingStart (42_frame_fsm.md R109). -/
def Obligations.StartPulseOpensFrame : Prop :=
  ∀ (s : State) (t d : Nat), s.ReadyFor (.pulse t d) → ok s.cfg s.st d → s.st = .awaitingStart →
    exec (.pulse t d) s =
      .next { s with st := .collectingBits, cnt := 0, acc := 0, ref := t + d, resp := some .accepted }

/-- InvalidInterval: a full reset in any state that extracts a bit (42_frame_fsm.md R115). -/
def Obligations.InvalidIntervalDiscardsFrame : Prop :=
  ∀ (s : State) (t d : Nat), s.ReadyFor (.pulse t d) → ok s.cfg s.st d → s.st ≠ .awaitingStart →
    enc s.cfg ((t : Int) - s.ref) = .invalid →
    exec (.pulse t d) s =
      .next { s with st := .awaitingStart, cnt := 0, acc := 0, ref := t + d, resp := some .invalidInterval }

/-- A data pulse in CollectingBits: the bit is appended, and the count after the append decides the move to AwaitingStop
(42_frame_fsm.md R110). -/
def Obligations.DataPulseAppendsBit : Prop :=
  ∀ (s : State) (t d : Nat) (b : Bool), s.ReadyFor (.pulse t d) → ok s.cfg s.st d → s.st = .collectingBits →
    enc s.cfg ((t : Int) - s.ref) = .bit b →
    exec (.pulse t d) s =
      .next { s with
        st := if s.cnt.toNat + 1 = 54 then .awaitingStop else .collectingBits
        cnt := BitVec.ofNat 6 (s.cnt.toNat + 1)
        acc := shiftIn s.acc b
        ref := t + d
        resp := some .accepted }

/-- A stop pulse in AwaitingStop appends buffer index 54 (42_frame_fsm.md R111). -/
def Obligations.StopPulseAppendsLastMessageBit : Prop :=
  ∀ (s : State) (t d : Nat) (b : Bool), s.ReadyFor (.pulse t d) → ok s.cfg s.st d → s.st = .awaitingStop →
    enc s.cfg ((t : Int) - s.ref) = .bit b →
    exec (.pulse t d) s =
      .next { s with
        st := .collectingChecksum, cnt := 55, acc := shiftIn s.acc b, ref := t + d, resp := some .accepted }

/-- A checksum pulse that does not complete the buffer appends its bit (42_frame_fsm.md R112). -/
def Obligations.ChecksumPulseAppendsBit : Prop :=
  ∀ (s : State) (t d : Nat) (b : Bool), s.ReadyFor (.pulse t d) → ok s.cfg s.st d → s.st = .collectingChecksum →
    enc s.cfg ((t : Int) - s.ref) = .bit b → s.cnt.toNat < 58 →
    exec (.pulse t d) s =
      .next { s with
        cnt := BitVec.ofNat 6 (s.cnt.toNat + 1), acc := shiftIn s.acc b, ref := t + d, resp := some .accepted }

/-- The fourth checksum pulse completes the frame: the decode reads the buffer with the 59th bit appended, the state is reset in
the same step, and the event is emitted, or dropped where the plugged-in validator rejects it (43_packet_decoder.md R126 to
R128). The validator is a free value: the statement holds whatever it answers. -/
def Obligations.LastChecksumPulseCompletesFrame : Prop :=
  ∀ (s : State) (t d : Nat) (b : Bool), s.ReadyFor (.pulse t d) → ok s.cfg s.st d → s.st = .collectingChecksum →
    enc s.cfg ((t : Int) - s.ref) = .bit b → s.cnt.toNat = 58 →
    let A := shiftIn s.acc b
    let done := { s with st := .awaitingStart, cnt := 0, acc := 0, ref := t + d }
    let event : Message :=
      { id := A.extractLsb' 23 24, raw := A.extractLsb' 3 20, cs := A.extractLsb' 0 4, ts := s.now }
    exec (.pulse t d) s =
      if s.cfg.csMode = .none ∨ Config.validator (A.extractLsb' 4 55) (A.extractLsb' 0 4) = true then
        .next { done with mq := event, pend := true, resp := some .completed }
      else .next { done with resp := some .checksumReject }

/-- One PULSE reports exactly one status, chosen in the order of 60_exceptions.md R144; where the classification fails, the
buffer is not reset, whatever the delta. -/
def Obligations.PulseStatusPriority : Prop :=
  ∀ (s : State) (t d : Nat), s.ReadyFor (.pulse t d) →
    ∃ s', exec (.pulse t d) s = .next s' ∧
      s'.resp = some (
        if ¬ ok s.cfg s.st d then .unexpectedSignal
        else if s.st = .awaitingStart then .accepted
        else if enc s.cfg ((t : Int) - s.ref) = .invalid then .invalidInterval
        else if s.st = .collectingChecksum ∧ s.cnt.toNat = 58 then
          (if s'.pend then .completed else .checksumReject)
        else .accepted) ∧
      (¬ ok s.cfg s.st d → s'.st = s.st ∧ s'.cnt = s.cnt ∧ s'.acc = s.acc)

/-- A start-length pulse in any state but AwaitingStart only moves `ref` (42_frame_fsm.md R117). -/
def Obligations.StartPulseMidFrameOnlyMovesReference : Prop :=
  ∀ (s : State) (t d : Nat), s.ReadyFor (.pulse t d) → s.st ≠ .awaitingStart →
    s.cfg.start.lo ≤ (d : Int) → (d : Int) ≤ s.cfg.start.hi →
    exec (.pulse t d) s = .next { s with ref := t + d, resp := some .unexpectedSignal }

/-- A pulse with an acceptable duration that starts before, at, or too soon after the reference ends the transmission, and so
does one too late, with the instance's delta windows (41_bit_encoder.md R100). -/
def Obligations.TooEarlyOrTooLatePulseEndsFrame : Prop :=
  ∀ (s : State) (t d : Nat), s.ReadyFor (.pulse t d) → s.cfg.zero = wsdCore.zero → s.cfg.one = wsdCore.one →
    ok s.cfg s.st d → s.st ≠ .awaitingStart → (t < s.ref + 60 ∨ s.ref + 340 < t) →
    exec (.pulse t d) s =
      .next { s with st := .awaitingStart, cnt := 0, acc := 0, ref := t + d, resp := some .invalidInterval }

/-- In AwaitingStart the reference cannot be observed: PULSE gives the same outcome and state whatever `ref` holds, of all values
its register holds (10_state.md R38). -/
def Obligations.ReferenceUnobservableInAwaitingStart : Prop :=
  ∀ (s : State) (r t d : Nat), s.st = .awaitingStart → s.ref < 2 ^ (s.cfg.wT + 1) → r < 2 ^ (s.cfg.wT + 1) →
    exec (.pulse t d) { s with ref := r } = exec (.pulse t d) s

/-! ## RESET and the reserved op codes -/

/-- RESET clears the buffer and returns to AwaitingStart, whatever its ignored fields; nothing else changes
(42_frame_fsm.md R118). -/
def Obligations.ResetCommandClearsBuffer : Prop :=
  ∀ (s : State) (t d : Nat), s.ReadyFor (.reset t d) →
    exec (.reset t d) s = .next { s with st := .awaitingStart, cnt := 0, acc := 0, resp := some .resetDone }

/-- Reset idempotence: in AwaitingStart with an empty buffer RESET changes no state element, and two RESETs in a row leave the
same state as one (70_reset_and_hazards.md R163). -/
def Obligations.ResetCommandIsIdempotent : Prop :=
  ∀ (s : State) (t d t' d' : Nat), s.ReadyFor (.reset t d) → s.ReadyFor (.reset t' d') →
    (s.st = .awaitingStart → s.cnt = 0 → exec (.reset t d) s = .next { s with resp := some .resetDone }) ∧
    ∃ s', exec (.reset t d) s = .next s' ∧ exec (.reset t' d') s' = .next s'

/-- A reserved op code changes no state and responds ILLEGAL_OP; a command after it behaves as if it had never been sent
(42_frame_fsm.md R119). -/
def Obligations.ReservedOpChangesNothing : Prop :=
  ∀ (s : State) (low : Bool) (t d : Nat), s.ReadyFor (.illegalOp low t d) →
    exec (.illegalOp low t d) s = .next { s with resp := some .illegalOp } ∧
    ∀ i : Instr, exec i { s with resp := some .illegalOp } = exec i s

/-! ## Every command -/

/-- Exactly the ready states perform a command that the width can express, and each other case is stopped by its own name: the
checks of 00_scope.md R6, 93_implementation_defined.md S7 and S9, 10_state.md R21 and 42_frame_fsm.md R106, in this order (the order
is the model's, entries 8, 9 and 16). -/
def Obligations.CommandPerformedExactlyWhenReady : Prop :=
  ∀ (s : State) (i : Instr),
    ((∃ s', exec i s = .next s') ↔ s.ReadyFor i) ∧
    (¬ s.cfg.wf → exec i s = .refused .illFormedConfig) ∧
    (s.cfg.wf → 60 ≤ s.cnt.toNat → exec i s = .fault .countOutOfRange) ∧
    (s.cfg.wf → s.cnt.toNat < 60 → ¬ s.Fits → exec i s = .refused .registerOutOfRange) ∧
    (s.cfg.wf → s.cnt.toNat < 60 → s.Fits → ¬ s.Inv → exec i s = .refused .outsideInvariants) ∧
    (s.Legal → ¬ i.wf s.cfg.wT → exec i s = .refused .operandOutOfRange) ∧
    (s.Legal → i.wf s.cfg.wT → s.pend = true → exec i s = .refused .inputNotReady)

/-- No command traps: every accepted command completes in one step with one response, and no command faults from a state that
meets the invariants (60_exceptions.md R141). -/
def Obligations.EveryCommandCompletesWithOneResponse : Prop :=
  ∀ (s : State) (i : Instr),
    (s.ReadyFor i → ∃ s' c, exec i s = .next s' ∧ s'.resp = some c) ∧ (s.Inv → ∀ f, exec i s ≠ .fault f)

/-- No command writes the configuration or the pins (10_state.md R31), and a command that does not complete a frame leaves `pend`
and `mq` as they were (10_state.md R28, R29). -/
def Obligations.CommandFrame : Prop :=
  ∀ (s s' : State) (i : Instr), exec i s = .next s' →
    s'.cfg = s.cfg ∧ s'.now = s.now ∧ s'.inputs = s.inputs ∧
    (s'.resp ≠ some .completed → s'.pend = s.pend ∧ s'.mq = s.mq)

/-! ## Reset, invariants -/

/-- The reset state is legal: INV1 to INV5, registers within their widths, a well-formed configuration; and its reference is in
range (10_state.md R37, R39). -/
def Obligations.ResetStateMeetsInvariants : Prop :=
  State.reset.Legal ∧ State.reset.RefInRange ∧ State.reset.pend = false

/-- INV1 to INV5 hold after reset and are preserved by every command; hence `cnt <= 58` in every state between commands
(10_state.md R37). -/
def Obligations.CommandsPreserveInvariants : Prop :=
  State.reset.Inv ∧ (∀ (s s' : State) (i : Instr), s.Inv → exec i s = .next s' → s'.Inv) ∧
  ∀ s : State, s.Inv → s.cnt.toNat ≤ 58

/-- Every step that goes on, whatever state it starts from, ends in a legal state: INV1 to INV5, every register within its width,
and the configuration well formed and unchanged; and it keeps the reference in its range (10_state.md R21, R25, R31, R37). -/
def Obligations.StepKeepsInvariants : Prop :=
  ∀ s s' : State, step s = .next s' →
    s'.Inv ∧ s'.Fits ∧ s'.cfg = s.cfg ∧ s'.cfg.wf ∧ (s.RefInRange → s'.RefInRange)

/-- The reset pin: at an edge with `rst = 1` every state element takes its reset value, whatever the state and the other pins;
no command is accepted and no response is produced; `in_ready = 0` while `rst = 1` (70_reset_and_hazards.md R161). -/
def Obligations.ResetPinWins : Prop :=
  ∀ (s : State) (p : PortIn) (ps : List PortIn), s.inputs = p :: ps → p.Fits s.cfg → p.rst = true → s.cfg.wf →
    (outputs p.rst s).inReady = false ∧
    step s = .next { st := .awaitingStart, cnt := 0, acc := 0, ref := 0, pend := false, mq := ⟨0, 0, 0, 0⟩, cfg := s.cfg,
                     resp := none, now := p.now, inputs := ps }

/-! ## Edges, ports and handshakes -/

/-- A step runs the decoded command: at an edge without reset, with no event pending and a command offered, the step is the
command's, on the state with the pins sampled and the last response taken off the port (30_encoding.md R68, R69). A sample that
the pins' widths cannot hold is refused by name, whatever it offers (entry 16). -/
def Obligations.StepRunsOfferedCommand : Prop :=
  ∀ (s : State) (p : PortIn) (ps : List PortIn), s.inputs = p :: ps →
    (p.Fits s.cfg → p.rst = false → p.inValid = true → s.pend = false →
      step s =
        exec (decode s.cfg.wT (p.inOp.toNat * 2 ^ (2 * s.cfg.wT) + p.inS * 2 ^ s.cfg.wT + p.inD))
          { s with inputs := ps, now := p.now, resp := none }) ∧
    (s.cfg.wf → ¬ p.Fits s.cfg → step s = .refused .pinOutOfRange)

/-- The step after `withFetchWord` runs exactly the command whose bits were given (the model's convention, entry 12). -/
def Obligations.FetchedWordRunsNext : Prop :=
  ∀ (s : State) (w : Nat), w < 2 ^ (2 * s.cfg.wT + 2) → s.now < 2 ^ s.cfg.wTS →
    step (s.withFetchWord (2 * s.cfg.wT + 2) w) = exec (decode s.cfg.wT w) { s with pend := false, resp := none }

/-- While a decode event waits, no command is accepted: whatever is offered, an edge with `rst = 0` and `msg_ready = 0` changes
nothing but the pins and the response port (30_encoding.md R68; 60_exceptions.md R154). -/
def Obligations.PendingEventHoldsInput : Prop :=
  ∀ (s : State) (p : PortIn) (ps : List PortIn), s.Legal → s.pend = true →
    s.inputs = p :: ps → p.Fits s.cfg → p.rst = false → p.msgReady = false →
    step s = .next { s with inputs := ps, now := p.now, resp := none }

/-- Message consumption: at an edge with `pend = 1` and `msg_ready = 1` the host takes the event, `pend <- 0`, `mq` keeps its
value, and no command is accepted whatever is offered; until that edge the message port holds the event stable and the input
port accepts nothing (43_packet_decoder.md R129; 60_exceptions.md R145). -/
def Obligations.HandshakeTakesEvent : Prop :=
  (∀ (s : State) (p : PortIn) (ps : List PortIn), s.Legal → s.pend = true →
    s.inputs = p :: ps → p.Fits s.cfg → p.rst = false → p.msgReady = true →
    step s = .next { s with pend := false, inputs := ps, now := p.now, resp := none }) ∧
  ∀ (s s' : State) (rst : Bool), step s = .next s' → s.pend = true → (pinsOf s).rst = false → (pinsOf s).msgReady = false →
    (outputs rst s').msgValid = true ∧ (outputs rst s').msg = some s.mq ∧ (outputs rst s').inReady = false

/-- An idle machine waits and keeps all state: with nothing offered, and when the host drives nothing any more
(60_exceptions.md R153, R154). What the pins do when the host's list is used up is the model's choice (entry 2). -/
def Obligations.IdleKeepsAllState : Prop :=
  (∀ (s : State) (p : PortIn) (ps : List PortIn), s.Ready → s.inputs = p :: ps → p.Fits s.cfg →
    p.rst = false → p.inValid = false → step s = .next { s with inputs := ps, now := p.now, resp := none }) ∧
  ∀ s : State, s.Legal → s.inputs = [] → step s = .next { s with resp := none }

/-- Nothing advances state except an accepted command, the reset pin and the message handshake, which clears only `pend`
(60_exceptions.md R150; 20_memory.md R53). -/
def Obligations.OnlyCommandResetOrHandshakeAdvances : Prop :=
  ∀ s s' : State, step s = .next s' → (pinsOf s).rst = false → accepts s (pinsOf s) = false →
    (handshake s (pinsOf s) = false → s'.arch = s.arch) ∧
    (handshake s (pinsOf s) = true → s'.arch = (s.st, s.cnt, s.acc, s.ref, false, s.mq))

/-- For each accepted command there is a response in the cycle after its edge, with that command's status code, and in no other
cycle (30_encoding.md R69). -/
def Obligations.ResponseForOneCycle : Prop :=
  ∀ (s s' : State) (rst : Bool), step s = .next s' →
    ((outputs rst s').resValid = true ↔
      (pinsOf s).inValid = true ∧ (outputs (pinsOf s).rst s).inReady = true) ∧
    ((outputs rst s').resValid = true → ∃ t c,
      exec (decode s.cfg.wT ((pinsOf s).word s.cfg.wT))
        { s with inputs := s.inputs.tail, now := (pinsOf s).now, resp := none } = .next t ∧
      t.resp = some c ∧ (outputs rst s').resStatus = some c.code)

/-- At most one event per PULSE, and only from the PULSE that appends the 59th bit under `csCheck = true`: no other edge raises
`pend` (43_packet_decoder.md R134). -/
def Obligations.OnlyCompletionRaisesEvent : Prop :=
  ∀ s s' : State, step s = .next s' → s.pend = false → s'.pend = true →
    accepts s (pinsOf s) = true ∧ s.st = .collectingChecksum ∧ s.cnt.toNat = 58 ∧ s'.resp = some .completed ∧
    ∃ t d b, decode s.cfg.wT ((pinsOf s).word s.cfg.wT) = .pulse t d ∧ ok s.cfg s.st d ∧
      enc s.cfg ((t : Int) - s.ref) = .bit b ∧
      (s.cfg.csMode = .none ∨
        Config.validator ((shiftIn s.acc b).extractLsb' 4 55) ((shiftIn s.acc b).extractLsb' 0 4) = true)

/-- Only a completing PULSE and the reset pin write `mq`; it keeps its value otherwise, pending or not (10_state.md R29). -/
def Obligations.MessageRegisterKeptUntilCompletion : Prop :=
  ∀ s s' : State, step s = .next s' → s'.mq ≠ s.mq →
    (pinsOf s).rst = true ∨ (s'.resp = some .completed ∧ s.st = .collectingChecksum ∧ s.cnt.toNat = 58)

/-- What the ports show (30_encoding.md R68, R70, R74; 60_exceptions.md R152). -/
def Obligations.OutputsShowState : Prop :=
  ∀ (s : State) (rst : Bool),
    ((outputs rst s).inReady = true ↔ s.pend = false ∧ rst = false) ∧
    (outputs rst s).msgValid = s.pend ∧ (s.pend = true → (outputs rst s).msg = some s.mq) ∧
    DecState.ofCode (outputs rst s).dbgSt = s.st ∧ (outputs rst s).dbgCnt = s.cnt ∧ (outputs rst s).dbgAcc = s.acc ∧
    (outputs rst s).dbgRef = s.ref ∧ (outputs rst s).dbgPend = s.pend

/-! ## The buffer and the packet decoder -/

/-- The bit buffer has `cnt` bits, and bit `i` is `acc[cnt-1-i]` (00_scope.md R10). -/
def Obligations.BufferIsViewOfAccumulator : Prop :=
  ∀ s : State, s.buf.length = s.cnt.toNat ∧
    ∀ i, i < s.cnt.toNat → s.buf[i]? = some (s.acc.getLsbD (s.cnt.toNat - 1 - i))

/-- The append adds one bit at the end of the buffer and keeps the others; it is `(acc << 1) | b`, and it drops no live bit: an
accumulator that is zero from position `n` up is zero from `n + 1` up after it (42_frame_fsm.md R113; 10_state.md R36). -/
def Obligations.AppendExtendsBuffer : Prop :=
  ∀ (acc : Acc) (n : Nat) (b : Bool), n ≤ 58 →
    bufferOf (appendAcc acc b) (n + 1) = bufferOf acc n ++ [b] ∧ appendAcc acc b = shiftIn acc b ∧
    (acc >>> n = 0 → appendAcc acc b >>> (n + 1) = 0)

/-- A group's field `acc[58-4k : 55-4k]` is directly the big-endian value of nibble `k` (20_memory.md R49). -/
def Obligations.NibbleFieldIsItsValue : Prop :=
  ∀ (A : Acc) (k : Nat), k ≤ 13 → (A.extractLsb' (55 - 4 * k) 4).toNat = nibble A k

/-- The identifier is `A[46:23]`, the six nibbles 3..8 concatenated, first nibble most significant
(43_packet_decoder.md R122). -/
def Obligations.IdentifierIsSixNibbles : Prop :=
  ∀ A : Acc, sensorId A = A.extractLsb' 23 24 ∧
    (sensorId A).toNat = nibble A 3 * 16 ^ 5 + nibble A 4 * 16 ^ 4 + nibble A 5 * 16 ^ 3 + nibble A 6 * 16 ^ 2 +
      nibble A 7 * 16 + nibble A 8

/-- Raw group `j` is nibble `9+j`, buffer indices `36+4j .. 39+4j`, and its tuple holds those bits in buffer order; the checksum
bits are buffer indices 55..58, 55 most significant (43_packet_decoder.md R123, R124, R131). -/
def Obligations.RawGroupsAndChecksumBits : Prop :=
  ∀ A : Acc,
    (∀ j, j < 5 →
      ((rawPayload A).extractLsb' (16 - 4 * j) 4).toNat = nibble A (9 + j) ∧
      (rawTuples (rawPayload A))[j]? =
        some (bufBit A (36 + 4 * j), bufBit A (37 + 4 * j), bufBit A (38 + 4 * j), bufBit A (39 + 4 * j))) ∧
    (rawTuples (rawPayload A)).length = 5 ∧
    ∀ j, j < 4 → (checksumBits A).getLsbD (3 - j) = bufBit A (55 + j)

/-- What the event omits: the synchronisation bits, indices 0..11, leave no trace in it; indices 56..58 leave one only in `cs`
(43_packet_decoder.md R133; 20_memory.md R51). -/
def Obligations.EventOmitsSynchronisationBits : Prop :=
  ∀ (A B : Acc) (ts : Nat),
    ((∀ i, 12 ≤ i → i < 59 → bufBit A i = bufBit B i) → decodeEvent A ts = decodeEvent B ts) ∧
    ((∀ i, 12 ≤ i → i < 56 → bufBit A i = bufBit B i) →
      (decodeEvent A ts).id = (decodeEvent B ts).id ∧ (decodeEvent A ts).raw = (decodeEvent B ts).raw)

/-- The rendering of the identifier always has six digits, leading zeros kept, and reads back as the identifier
(43_packet_decoder.md R130). The digit alphabet is from outside the source (entry 14). -/
def Obligations.RenderedIdentifierHasSixDigits : Prop :=
  ∀ id : BitVec 24, (renderId id).length = 6 ∧ hexValue (renderId id) = id.toNat

/-! ## Runs -/

/-- Determinism: nothing but the timestamps depends on the timestamps. Two runs of any length from states that differ only in
timestamps (held, or on the pins to come), each of which fits its width, stay the same apart from timestamps
(43_packet_decoder.md R125, R132). -/
def Obligations.TimestampsInfluenceNothing : Prop :=
  ∀ (k : Nat) (a b : State), a.StampsFit → b.StampsFit → a.blankStamps = b.blankStamps →
    mapNext State.blankStamps (runSteps k a) = mapNext State.blankStamps (runSteps k b)

/-- Frame length: along PULSE commands that are all accepted or unexpected, at most 59 are accepted, counting those the frame
already has; and the one that completes the frame or has it rejected is the 60th (42_frame_fsm.md R120). From AwaitingStart
`progress` is 0. -/
def Obligations.FrameTakesSixtyPulses : Prop :=
  ∀ (s s' : State) (ps : List (Nat × Nat)) (cs : List Status), s.Inv →
    responses (ps.map fun p => .pulse p.1 p.2) s = some (cs, s') →
    ((∀ c ∈ cs, c = .accepted ∨ c = .unexpectedSignal) →
      s.progress + cs.count .accepted = s'.progress ∧ s'.progress ≤ 59) ∧
    ∀ cs' c, cs = cs' ++ [c] → (∀ c' ∈ cs', c' = .accepted ∨ c' = .unexpectedSignal) →
      (c = .completed ∨ c = .checksumReject) → s.progress + cs'.count .accepted = 59

/-- The pseudo-instruction FRAME is decoded: from any ready state in AwaitingStart, with the instance's windows and mode at any
widths, its 60 commands complete one frame, and the event holds exactly the bits of its string (30_encoding.md R78;
42_frame_fsm.md R120). -/
def Obligations.FrameStringIsDecoded : Prop :=
  ∀ (s : State) (t T : Nat) (bits : List Bool) (is : List Instr) (A : Acc),
    s.Ready → s.cfg = { wsdCore with wT := s.cfg.wT, wTS := s.cfg.wTS } → s.st = .awaitingStart → bits.length = 59 →
    expandLine s.cfg.wT none (.frame t bits) = .ok (is, some T) → (∀ i, i < 59 → bits[i]? = some (bufBit A i)) →
    is.length = 60 ∧
    execAll is s = .next { s with ref := T, mq := decodeEvent A s.now, pend := true, resp := some .completed }

/-! ## The host's tools and several instances -/

/-- The pseudo-instructions' table: expansion and new cursor, for every operand for which the expansion is in range
(30_encoding.md R78). -/
def Obligations.PseudoInstructionTable : Prop :=
  ∀ wT T x w : Nat,
    (∀ T', x < 2 ^ wT → 1000 < 2 ^ wT → expandLine wT T' (.start x) = .ok ([.pulse x 1000], some (x + 1000))) ∧
    (T + 270 < 2 ^ wT → 100 < 2 ^ wT → expandLine wT (some T) .bit0 = .ok ([.pulse (T + 270) 100], some (T + 370))) ∧
    (T + 120 < 2 ^ wT → 100 < 2 ^ wT → expandLine wT (some T) .bit1 = .ok ([.pulse (T + 120) 100], some (T + 220))) ∧
    (T + x < 2 ^ wT → 100 < 2 ^ wT → expandLine wT (some T) (.dbit x) = .ok ([.pulse (T + x) 100], some (T + x + 100))) ∧
    (T + 270 < 2 ^ wT → 500 < 2 ^ wT → expandLine wT (some T) .stop0 = .ok ([.pulse (T + 270) 500], some (T + 770))) ∧
    (T + 120 < 2 ^ wT → 500 < 2 ^ wT → expandLine wT (some T) .stop1 = .ok ([.pulse (T + 120) 500], some (T + 620))) ∧
    (T + x < 2 ^ wT → w < 2 ^ wT → expandLine wT (some T) (.noise x w) = .ok ([.pulse (T + x) w], some (T + x + w)))

/-- FRAME is what its row of the table says: START, then BIT and STOP lines, in commands, cursor and refusal alike
(30_encoding.md R78). -/
def Obligations.FrameExpandsAsItsLines : Prop :=
  ∀ (wT : Nat) (T : Option Nat) (t : Nat) (bits : List Bool),
    expandLine wT T (.frame t bits) = expandAll wT T (frameLines t bits)

/-- An operand, or an expansion, outside `[0, 2^W_T - 1]` is refused and never truncated, and so is a line that does not parse;
the refusal names the line (30_encoding.md R79): after lines `pre` that all parse and expand, the refusal of the next line carries
its number, counted from 1 in `assemble`. That this refusal is then the whole answer, whatever lines follow, and that a line
without a cursor to measure from is refused, are the model's choices (entry 13). -/
def Obligations.AssemblerRefusesByLine : Prop :=
  ∀ wT : Nat,
  (∀ (c : Option Nat) (n s d : Nat), 2 ^ wT ≤ s ∨ 2 ^ wT ≤ d →
    expandLine wT c (.pulse s d) = .error .outOfRange ∧ expandLine wT c (.op n s d) = .error .outOfRange) ∧
  (∀ (c : Option Nat) (t : Nat), 2 ^ wT ≤ t ∨ 2 ^ wT ≤ 1000 → expandLine wT c (.start t) = .error .outOfRange) ∧
  (∀ T x w : Nat,
    (2 ^ wT ≤ T + x ∨ 2 ^ wT ≤ 100 → expandLine wT (some T) (.dbit x) = .error .outOfRange) ∧
    (2 ^ wT ≤ T + x ∨ 2 ^ wT ≤ w → expandLine wT (some T) (.noise x w) = .error .outOfRange)) ∧
  (∀ T : Nat,
    (2 ^ wT ≤ T + 120 ∨ 2 ^ wT ≤ 100 → expandLine wT (some T) .bit1 = .error .outOfRange) ∧
    (2 ^ wT ≤ T + 120 ∨ 2 ^ wT ≤ 500 → expandLine wT (some T) .stop1 = .error .outOfRange) ∧
    (2 ^ wT ≤ T + 270 ∨ 2 ^ wT ≤ 100 → expandLine wT (some T) .bit0 = .error .outOfRange) ∧
    (2 ^ wT ≤ T + 270 ∨ 2 ^ wT ≤ 500 → expandLine wT (some T) .stop0 = .error .outOfRange)) ∧
  (∀ (c : Option Nat) (t : Nat) (bits : List Bool),
    (∃ p ∈ pulsesOf 0 (.frame t bits), 2 ^ wT ≤ p.1 ∨ 2 ^ wT ≤ p.2) →
    expandLine wT c (.frame t bits) = .error .outOfRange) ∧
  (∀ (c T : Option Nat) (pre post : List (List Char)) (text : List Char) (ls : List Line) (is : List Instr),
    pre.map parseLine = ls.map some → expandAll wT c ls = .ok (is, T) →
    ∀ e : LineError,
      (parseLine text = none ∧ e = .unparsable ∨ ∃ l, parseLine text = some l ∧ expandLine wT T l = .error e) →
      (∀ n : Nat, assembleFrom wT n c (pre ++ text :: post) = .error ⟨n + pre.length, e⟩) ∧
      (c = none → assemble wT (pre ++ text :: post) = .error ⟨pre.length + 1, e⟩))

/-- Instances share nothing: a step of one leaves every other as it was (60_exceptions.md R151). -/
def Obligations.InstancesShareNothing : Prop :=
  ∀ (k : Nat) (b b' : List State), stepInstance k b = .next b' →
    b'.length = b.length ∧ (∀ j, j ≠ k → b'[j]? = b[j]?) ∧
    ∀ s, b[k]? = some s → ∃ s', step s = .next s' ∧ b'[k]? = some s'
end

