-- ==== Sys2Proof/Laws/Operands.lean ====
section
/-! SUPPORT. What the operand forms, the classifier and the encoder compute, for any well-formed configuration. -/

namespace Sys2Proof.Machine

/-- The end of a pulse that the width can express fits the reference register, and is in the range of 10_state.md R25. -/
theorem endTime_range {wT : Nat} {t d : Nat} (ht : t < 2 ^ wT) (hd : d < 2 ^ wT) :
    endTime t d < 2 ^ (wT + 1) ∧ endTime t d ≤ 2 ^ (wT + 1) - 2 := by
  rw [pow_succ, endTime]
  omega

section Classifier
variable {c : Cfg} (d : Nat)

theorem not_isStart_of_isStop (h : c.wf) (hs : isStop c d) : ¬ isStart c d := by
  obtain ⟨-, ⟨-, h2, -⟩, -⟩ := h
  intro hst
  omega

theorem not_isStart_of_isData (h : c.wf) (hs : isData c d) : ¬ isStart c d := by
  obtain ⟨-, ⟨h2, -, -⟩, -⟩ := h
  intro hst
  omega

theorem not_isStop_of_isData (h : c.wf) (hs : isData c d) : ¬ isStop c d := by
  obtain ⟨-, ⟨-, -, h2⟩, -⟩ := h
  intro hst
  omega

theorem cat_eq_start : cat c d = .start ↔ isStart c d := by
  constructor
  · intro e
    unfold cat at e
    split_ifs at e with h1
    exact h1
  · intro h1
    rw [cat, if_pos h1]

theorem cat_eq_stop (h : c.wf) : cat c d = .stop ↔ isStop c d := by
  constructor
  · intro e
    unfold cat at e
    split_ifs at e with _ h2
    exact h2
  · intro h2
    rw [cat, if_neg (not_isStart_of_isStop d h h2), if_pos h2]

theorem cat_eq_data (h : c.wf) : cat c d = .data ↔ isData c d := by
  constructor
  · intro e
    unfold cat at e
    split_ifs at e with _ _ h3
    exact h3
  · intro h3
    rw [cat, if_neg (not_isStart_of_isData d h h3), if_neg (not_isStop_of_isData d h h3), if_pos h3]

/-- The source's table of accepted ranges (40_pulse_classifier.md R91). -/
theorem ok_iff_inW (h : c.wf) (st : DecState) : ok c st d ↔ inW (acceptedWindow c st) (operand d) := by
  cases st
  · exact cat_eq_start d
  · exact cat_eq_data d h
  · exact cat_eq_stop d h
  · exact cat_eq_data d h

end Classifier

section Encoder
variable {c : Cfg} (δ : Int)

theorem enc_eq_zero : enc c δ = .bit false ↔ isZero c δ := by
  constructor
  · intro e
    unfold enc at e
    split_ifs at e with h0 h1
    · exact h0
    · cases e
  · intro h0
    rw [enc, if_pos h0]

theorem enc_eq_one (h : c.wf) : enc c δ = .bit true ↔ isOne c δ := by
  obtain ⟨-, -, h3, -⟩ := h
  constructor
  · intro e
    unfold enc at e
    split_ifs at e with h0 h1
    · cases e
    · exact h1
  · intro h1
    have h0 : ¬ isZero c δ := by intro h0; omega
    rw [enc, if_neg h0, if_pos h1]

theorem enc_eq_invalid : enc c δ = .invalid ↔ ¬ isZero c δ ∧ ¬ isOne c δ := by
  constructor
  · intro e
    unfold enc at e
    split_ifs at e with h0 h1
    exact ⟨h0, h1⟩
  · rintro ⟨h0, h1⟩
    rw [enc, if_neg h0, if_neg h1]

end Encoder

/-- The two forms of the append (42_frame_fsm.md R113) are one. -/
theorem appendAcc_eq_shiftIn (acc : Acc) (b : Bool) : appendAcc acc b = shiftIn acc b := by
  apply BitVec.eq_of_getLsbD_eq
  intro i hi
  cases b <;> rcases i with _ | i <;> simp [appendAcc, shiftIn]
  all_goals congr 1; simp only [decide_eq_decide]; omega

theorem appendAcc_getLsbD_zero (acc : Acc) (b : Bool) : (appendAcc acc b).getLsbD 0 = b := by
  simp [appendAcc]

theorem appendAcc_getLsbD_succ (acc : Acc) (b : Bool) (i : Nat) (h : i < 58) :
    (appendAcc acc b).getLsbD (i + 1) = acc.getLsbD i := by
  simp [appendAcc, h]

/-- No live bit is dropped: INV5 is kept by an append (42_frame_fsm.md R113; 10_state.md R36). -/
theorem appendAcc_clear (acc : Acc) (b : Bool) (n : Nat) (h : acc >>> n = 0) : appendAcc acc b >>> (n + 1) = 0 := by
  apply BitVec.eq_of_getLsbD_eq
  intro i hi
  have hi' : (acc >>> n).getLsbD i = false := by rw [h]; simp
  rw [BitVec.getLsbD_ushiftRight] at hi' ⊢
  have e : n + 1 + i = (n + i) + 1 := by omega
  rw [e]
  by_cases hlt : n + i < 58
  · rw [appendAcc_getLsbD_succ _ _ _ hlt, hi']; simp
  · rw [BitVec.getLsbD_of_ge _ _ (by omega)]; simp

end Sys2Proof.Machine
end

