-- ==== Sys2Proof/Laws/State.lean ====
section
/-! SUPPORT. One lemma per field per update of the state, each true by `rfl`, so that no later proof unfolds a record update. -/

namespace Sys2Proof.Machine

namespace State

section Respond
variable (c : Status) (s : State)

@[simp] theorem respond_st : (s.respond c).st = s.st := rfl
@[simp] theorem respond_cnt : (s.respond c).cnt = s.cnt := rfl
@[simp] theorem respond_acc : (s.respond c).acc = s.acc := rfl
@[simp] theorem respond_ref : (s.respond c).ref = s.ref := rfl
@[simp] theorem respond_pend : (s.respond c).pend = s.pend := rfl
@[simp] theorem respond_mq : (s.respond c).mq = s.mq := rfl
@[simp] theorem respond_cfg : (s.respond c).cfg = s.cfg := rfl
@[simp] theorem respond_resp : (s.respond c).resp = some c := rfl
@[simp] theorem respond_now : (s.respond c).now = s.now := rfl
@[simp] theorem respond_inputs : (s.respond c).inputs = s.inputs := rfl

end Respond

section SetRef
variable (t d : Nat) (s : State)

@[simp] theorem setRef_st : (s.setRef t d).st = s.st := rfl
@[simp] theorem setRef_cnt : (s.setRef t d).cnt = s.cnt := rfl
@[simp] theorem setRef_acc : (s.setRef t d).acc = s.acc := rfl
@[simp] theorem setRef_ref : (s.setRef t d).ref = endTime t d := rfl
@[simp] theorem setRef_pend : (s.setRef t d).pend = s.pend := rfl
@[simp] theorem setRef_mq : (s.setRef t d).mq = s.mq := rfl
@[simp] theorem setRef_cfg : (s.setRef t d).cfg = s.cfg := rfl
@[simp] theorem setRef_resp : (s.setRef t d).resp = s.resp := rfl
@[simp] theorem setRef_now : (s.setRef t d).now = s.now := rfl
@[simp] theorem setRef_inputs : (s.setRef t d).inputs = s.inputs := rfl

end SetRef

section SetSt
variable (v : DecState) (s : State)

@[simp] theorem setSt_st : (s.setSt v).st = v := rfl
@[simp] theorem setSt_cnt : (s.setSt v).cnt = s.cnt := rfl
@[simp] theorem setSt_acc : (s.setSt v).acc = s.acc := rfl
@[simp] theorem setSt_ref : (s.setSt v).ref = s.ref := rfl
@[simp] theorem setSt_pend : (s.setSt v).pend = s.pend := rfl
@[simp] theorem setSt_mq : (s.setSt v).mq = s.mq := rfl
@[simp] theorem setSt_cfg : (s.setSt v).cfg = s.cfg := rfl
@[simp] theorem setSt_resp : (s.setSt v).resp = s.resp := rfl
@[simp] theorem setSt_now : (s.setSt v).now = s.now := rfl
@[simp] theorem setSt_inputs : (s.setSt v).inputs = s.inputs := rfl

end SetSt

section Append
variable (b : Bool) (s : State)

@[simp] theorem append_st : (s.append b).st = s.st := rfl
@[simp] theorem append_cnt : (s.append b).cnt = s.cnt + 1 := rfl
@[simp] theorem append_acc : (s.append b).acc = appendAcc s.acc b := rfl
@[simp] theorem append_ref : (s.append b).ref = s.ref := rfl
@[simp] theorem append_pend : (s.append b).pend = s.pend := rfl
@[simp] theorem append_mq : (s.append b).mq = s.mq := rfl
@[simp] theorem append_cfg : (s.append b).cfg = s.cfg := rfl
@[simp] theorem append_resp : (s.append b).resp = s.resp := rfl
@[simp] theorem append_now : (s.append b).now = s.now := rfl
@[simp] theorem append_inputs : (s.append b).inputs = s.inputs := rfl

end Append

section FullReset
variable (s : State)

@[simp] theorem fullReset_st : (s.fullReset).st = .awaitingStart := rfl
@[simp] theorem fullReset_cnt : (s.fullReset).cnt = 0 := rfl
@[simp] theorem fullReset_acc : (s.fullReset).acc = 0 := rfl
@[simp] theorem fullReset_ref : (s.fullReset).ref = s.ref := rfl
@[simp] theorem fullReset_pend : (s.fullReset).pend = s.pend := rfl
@[simp] theorem fullReset_mq : (s.fullReset).mq = s.mq := rfl
@[simp] theorem fullReset_cfg : (s.fullReset).cfg = s.cfg := rfl
@[simp] theorem fullReset_resp : (s.fullReset).resp = s.resp := rfl
@[simp] theorem fullReset_now : (s.fullReset).now = s.now := rfl
@[simp] theorem fullReset_inputs : (s.fullReset).inputs = s.inputs := rfl

end FullReset

section Emit
variable (m : Message) (s : State)

@[simp] theorem emit_st : (s.emit m).st = s.st := rfl
@[simp] theorem emit_cnt : (s.emit m).cnt = s.cnt := rfl
@[simp] theorem emit_acc : (s.emit m).acc = s.acc := rfl
@[simp] theorem emit_ref : (s.emit m).ref = s.ref := rfl
@[simp] theorem emit_pend : (s.emit m).pend = true := rfl
@[simp] theorem emit_mq : (s.emit m).mq = m := rfl
@[simp] theorem emit_cfg : (s.emit m).cfg = s.cfg := rfl
@[simp] theorem emit_resp : (s.emit m).resp = s.resp := rfl
@[simp] theorem emit_now : (s.emit m).now = s.now := rfl
@[simp] theorem emit_inputs : (s.emit m).inputs = s.inputs := rfl

end Emit

section TakeEvent
variable (s : State)

@[simp] theorem takeEvent_st : (s.takeEvent).st = s.st := rfl
@[simp] theorem takeEvent_cnt : (s.takeEvent).cnt = s.cnt := rfl
@[simp] theorem takeEvent_acc : (s.takeEvent).acc = s.acc := rfl
@[simp] theorem takeEvent_ref : (s.takeEvent).ref = s.ref := rfl
@[simp] theorem takeEvent_pend : (s.takeEvent).pend = false := rfl
@[simp] theorem takeEvent_mq : (s.takeEvent).mq = s.mq := rfl
@[simp] theorem takeEvent_cfg : (s.takeEvent).cfg = s.cfg := rfl
@[simp] theorem takeEvent_resp : (s.takeEvent).resp = s.resp := rfl
@[simp] theorem takeEvent_now : (s.takeEvent).now = s.now := rfl
@[simp] theorem takeEvent_inputs : (s.takeEvent).inputs = s.inputs := rfl

end TakeEvent

section ResetPin
variable (s : State)

@[simp] theorem resetPin_st : (s.resetPin).st = .awaitingStart := rfl
@[simp] theorem resetPin_cnt : (s.resetPin).cnt = 0 := rfl
@[simp] theorem resetPin_acc : (s.resetPin).acc = 0 := rfl
@[simp] theorem resetPin_ref : (s.resetPin).ref = 0 := rfl
@[simp] theorem resetPin_pend : (s.resetPin).pend = false := rfl
@[simp] theorem resetPin_mq : (s.resetPin).mq = ⟨0, 0, 0, 0⟩ := rfl
@[simp] theorem resetPin_cfg : (s.resetPin).cfg = s.cfg := rfl
@[simp] theorem resetPin_resp : (s.resetPin).resp = none := rfl
@[simp] theorem resetPin_now : (s.resetPin).now = s.now := rfl
@[simp] theorem resetPin_inputs : (s.resetPin).inputs = s.inputs := rfl

end ResetPin

end State

section Sampled
variable (s : State)

@[simp] theorem sampled_st : (sampled s).st = s.st := rfl
@[simp] theorem sampled_cnt : (sampled s).cnt = s.cnt := rfl
@[simp] theorem sampled_acc : (sampled s).acc = s.acc := rfl
@[simp] theorem sampled_ref : (sampled s).ref = s.ref := rfl
@[simp] theorem sampled_pend : (sampled s).pend = s.pend := rfl
@[simp] theorem sampled_mq : (sampled s).mq = s.mq := rfl
@[simp] theorem sampled_cfg : (sampled s).cfg = s.cfg := rfl
@[simp] theorem sampled_resp : (sampled s).resp = none := rfl
@[simp] theorem sampled_now : (sampled s).now = (pinsOf s).now := rfl
@[simp] theorem sampled_inputs : (sampled s).inputs = s.inputs.tail := rfl

end Sampled

end Sys2Proof.Machine
end

