-- ==== Sys2Proof/Laws/Commands.lean ====
section
/-! SUPPORT. What each shared operation and each command can do, said once. -/

namespace Sys2Proof.Machine

/-! ## The guard -/

/-- INV1 to INV4 bound the count (10_state.md R37). -/
theorem State.Inv.cnt_le {s : State} (h : s.Inv) : s.cnt.toNat ≤ 58 := by
  obtain ⟨h1, h2, h3, h4, -⟩ := h
  rcases hs : s.st
  · rw [(h1 hs).1]; decide
  · have := h2 hs; omega
  · have := h3 hs; omega
  · have := h4 hs; omega

theorem ifLegal_of_legal {s : State} (h : s.Legal) (k : Host.Outcome State Fault Refusal) : ifLegal s k = k := by
  have hc := State.Inv.cnt_le h.2.2
  rw [ifLegal, if_neg (not_not.mpr h.1), if_neg (by omega), if_neg (not_not.mpr h.2.1), if_neg (not_not.mpr h.2.2)]

/-- Only a legal state gets a meaning. -/
theorem ifLegal_next {s t : State} {k : Host.Outcome State Fault Refusal} (h : ifLegal s k = .next t) :
    s.Legal ∧ k = .next t := by
  unfold ifLegal at h
  split_ifs at h with h1 h2 h3 h4
  exact ⟨⟨h1, h3, h4⟩, h⟩

/-- What a legal state answers to a command: a refusal by name, or the effect. -/
theorem command_of_legal {t d : Nat} {s : State} (h : s.Legal) (f : State → State) :
    command t d s f =
      if ¬ (t < 2 ^ s.cfg.wT ∧ d < 2 ^ s.cfg.wT) then .refused .operandOutOfRange
      else if s.pend then .refused .inputNotReady
      else .next (f s) :=
  ifLegal_of_legal h _

theorem command_of_ready {t d : Nat} {s : State} (h : s.Ready) (hi : t < 2 ^ s.cfg.wT ∧ d < 2 ^ s.cfg.wT)
    (f : State → State) : command t d s f = .next (f s) := by
  rw [command_of_legal h.1, if_neg (not_not.mpr hi), h.2]
  rfl

theorem command_next {t d : Nat} {s s' : State} {f : State → State} (h : command t d s f = .next s') :
    s.Ready ∧ (t < 2 ^ s.cfg.wT ∧ d < 2 ^ s.cfg.wT) ∧ s' = f s := by
  obtain ⟨hl, hk⟩ := ifLegal_next h
  split_ifs at hk with h1 h2
  cases hk
  exact ⟨⟨hl, by simpa using h2⟩, h1, rfl⟩

/-! ## The effect of a command -/

/-- The effect of a command on a state that performs it. -/
def effect : Instr → State → State
  | .pulse t d, s => pulse t d s
  | .reset _ _, s => s.fullReset.respond .resetDone
  | .illegalOp _ _ _, s => s.respond .illegalOp

theorem exec_eq_command (i : Instr) (s : State) : exec i s = command i.s i.d s (effect i) := by
  cases i <;> rfl

theorem exec_of_ready {s : State} {i : Instr} (h : s.ReadyFor i) : exec i s = .next (effect i s) := by
  rw [exec_eq_command, command_of_ready h.1 h.2]

/-- Whatever a command does, it does from a state ready for it, and it does its effect. -/
theorem exec_next {i : Instr} {s t : State} (h : exec i s = .next t) : s.ReadyFor i ∧ t = effect i s := by
  rw [exec_eq_command] at h
  obtain ⟨hr, hi, rfl⟩ := command_next h
  exact ⟨⟨hr, hi⟩, rfl⟩

/-! ## PULSE: the rows of 42_frame_fsm.md R116 -/

section Pulse
variable {t d : Nat} {s : State}

theorem pulse_unexpected (h : ¬ ok s.cfg s.st d) : pulse t d s = unexpectedSignal t d s := by
  rw [pulse, if_pos h]

theorem pulse_start (h : ok s.cfg s.st d) (hs : s.st = .awaitingStart) : pulse t d s = pulseStart t d s := by
  rw [pulse, if_neg (not_not.mpr h), hs]

theorem pulse_invalid (h : ok s.cfg s.st d) (hs : s.st ≠ .awaitingStart) (he : enc s.cfg (delta t s.ref) = .invalid) :
    pulse t d s = invalidInterval t d s := by
  rw [pulse, if_neg (not_not.mpr h)]
  cases hst : s.st <;> simp_all [withBit]

theorem pulse_data {b : Bool} (h : ok s.cfg s.st d) (hs : s.st = .collectingBits)
    (he : enc s.cfg (delta t s.ref) = .bit b) : pulse t d s = pulseData t d b s := by
  rw [pulse, if_neg (not_not.mpr h)]
  simp_all [withBit]

theorem pulse_stop {b : Bool} (h : ok s.cfg s.st d) (hs : s.st = .awaitingStop)
    (he : enc s.cfg (delta t s.ref) = .bit b) : pulse t d s = pulseStop t d b s := by
  rw [pulse, if_neg (not_not.mpr h)]
  simp_all [withBit]

theorem pulse_checksum {b : Bool} (h : ok s.cfg s.st d) (hs : s.st = .collectingChecksum)
    (he : enc s.cfg (delta t s.ref) = .bit b) : pulse t d s = pulseChecksum t d b s := by
  rw [pulse, if_neg (not_not.mpr h)]
  simp_all [withBit]

/-- Everything a PULSE can do: one of the six effects of 42_frame_fsm.md R114, R109, R115, R110, R111, R112. -/
theorem pulse_cases (t d : Nat) (s : State) :
    (¬ ok s.cfg s.st d ∧ pulse t d s = unexpectedSignal t d s) ∨
    (ok s.cfg s.st d ∧ s.st = .awaitingStart ∧ pulse t d s = pulseStart t d s) ∨
    (ok s.cfg s.st d ∧ s.st ≠ .awaitingStart ∧ enc s.cfg (delta t s.ref) = .invalid ∧
      pulse t d s = invalidInterval t d s) ∨
    (∃ b, ok s.cfg s.st d ∧ enc s.cfg (delta t s.ref) = .bit b ∧
      ((s.st = .collectingBits ∧ pulse t d s = pulseData t d b s) ∨
       (s.st = .awaitingStop ∧ pulse t d s = pulseStop t d b s) ∨
       (s.st = .collectingChecksum ∧ pulse t d s = pulseChecksum t d b s))) := by
  by_cases h : ok s.cfg s.st d
  · rcases hs : s.st with _ | _ | _ | _
    · exact .inr (.inl ⟨hs ▸ h, rfl, pulse_start h hs⟩)
    all_goals
      have hne : s.st ≠ .awaitingStart := by rw [hs]; decide
      rcases he : enc s.cfg (delta t s.ref) with b | _
    · exact .inr (.inr (.inr ⟨b, hs ▸ h, rfl, .inl ⟨rfl, pulse_data h hs he⟩⟩))
    · exact .inr (.inr (.inl ⟨hs ▸ h, hs ▸ hne, rfl, pulse_invalid h hne he⟩))
    · exact .inr (.inr (.inr ⟨b, hs ▸ h, rfl, .inr (.inl ⟨rfl, pulse_stop h hs he⟩)⟩))
    · exact .inr (.inr (.inl ⟨hs ▸ h, hs ▸ hne, rfl, pulse_invalid h hne he⟩))
    · exact .inr (.inr (.inr ⟨b, hs ▸ h, rfl, .inr (.inr ⟨rfl, pulse_checksum h hs he⟩)⟩))
    · exact .inr (.inr (.inl ⟨hs ▸ h, hs ▸ hne, rfl, pulse_invalid h hne he⟩))
  · exact .inl ⟨h, pulse_unexpected h⟩

end Pulse

/-- The count after an append, where no wrap is possible (42_frame_fsm.md R113). -/
theorem cnt_succ_toNat {s : State} (h : s.cnt.toNat ≤ 58) : (s.cnt + 1).toNat = s.cnt.toNat + 1 := by
  rw [BitVec.toNat_add]
  simp
  omega

/-! ## The end of a frame (43_packet_decoder.md R126) -/

theorem complete_pass {A : Acc} {s : State} (h : csCheck s.cfg.csMode A = true) :
    complete A s = (s.fullReset.emit (decodeEvent A s.now)).respond .completed := by
  rw [complete, if_pos h]

theorem complete_reject {A : Acc} {s : State} (h : csCheck s.cfg.csMode A = false) :
    complete A s = s.fullReset.respond .checksumReject := by
  rw [complete, h]
  rfl

/-- Mode `NONE` passes every frame (43_packet_decoder.md R127). -/
@[simp] theorem csCheck_none (A : Acc) : csCheck .none A = true := rfl

@[simp] theorem csCheck_pluggable (A : Acc) :
    csCheck .pluggable A = Config.validator (messageBits A) (checksumBits A) := rfl

end Sys2Proof.Machine
end

