-- ==== Sys2Proof/Laws/PerInstr.lean ====
section
/-! SUPPORT. The fields of a word, and the statements made per command. -/

namespace Sys2Proof

/-! Digits in base `P`. -/

theorem digit_div {P d : Nat} (a : Nat) (h : d < P) : (a * P + d) / P = a := by
  rw [Nat.add_comm, Nat.add_mul_div_right _ _ (by omega), Nat.div_eq_of_lt h, Nat.zero_add]

theorem digit_mod {P d : Nat} (a : Nat) (h : d < P) : (a * P + d) % P = d := by
  rw [Nat.add_comm, Nat.add_mul_mod_self_right, Nat.mod_eq_of_lt h]

theorem digit_lt {P Q a d : Nat} (ha : a < Q) (hd : d < P) : a * P + d < Q * P :=
  calc a * P + d < a * P + P := by omega
    _ = (a + 1) * P := by ring
    _ ≤ Q * P := Nat.mul_le_mul_right _ ha

section Fields
variable {wT : Nat} (op : BitVec 2) {s d : Nat}

/-- The word in base `2^W_T`: `{op, s}`, then `d`. -/
theorem wordOf_eq : wordOf wT op s d = (op.toNat * 2 ^ wT + s) * 2 ^ wT + d := by
  rw [wordOf, two_mul, pow_add]
  ring

/-- A word of fields that fit is as long as 30_encoding.md R62 says. -/
theorem wordOf_lt (hs : s < 2 ^ wT) (hd : d < 2 ^ wT) : wordOf wT op s d < 2 ^ (2 * wT + 2) := by
  have e : 2 ^ (2 * wT + 2) = (4 * 2 ^ wT) * 2 ^ wT := by rw [pow_add, two_mul, pow_add]; ring
  rw [wordOf_eq, e]
  exact digit_lt (digit_lt op.isLt hs) hd

theorem opField_wordOf (hs : s < 2 ^ wT) (hd : d < 2 ^ wT) : opField wT (wordOf wT op s d) = op := by
  rw [opField, wordOf_eq, two_mul, pow_add, ← Nat.div_div_eq_div_mul, digit_div _ hd, digit_div _ hs]
  simp

theorem sField_wordOf (hs : s < 2 ^ wT) (hd : d < 2 ^ wT) : sField wT (wordOf wT op s d) = s := by
  rw [sField, wordOf_eq, digit_div _ hd, digit_mod _ hs]

theorem dField_wordOf (hd : d < 2 ^ wT) : dField wT (wordOf wT op s d) = d := by
  rw [dField, wordOf_eq, digit_mod _ hd]

end Fields

end Sys2Proof

namespace Sys2Proof.Laws

/-- The word of a command carries its op code in bits `[2*W_T+1 : 2*W_T]`, at every operand width (30_encoding.md R62, R64). -/
def OpField.Statement (i : Instr) : Prop := ∀ wT, i.wf wT → opField wT (encode wT i) = i.op

theorem OpField.pulse (s d : Nat) : OpField.Statement (.pulse s d) := fun _ h => opField_wordOf _ h.1 h.2
theorem OpField.reset (s d : Nat) : OpField.Statement (.reset s d) := fun _ h => opField_wordOf _ h.1 h.2
theorem OpField.illegalOp (low : Bool) (s d : Nat) : OpField.Statement (.illegalOp low s d) := fun _ h =>
  opField_wordOf _ h.1 h.2

end Sys2Proof.Laws
end

