-- ==== Sys2Proof/Laws/Step.lean ====
section
/-! SUPPORT. What one edge can do, said once: the inversion of `step`. -/

namespace Sys2Proof.Machine

theorem accepts_pend {s : State} {p : PortIn} (h : accepts s p = true) : s.pend = false := by
  simp [accepts, inReady] at h
  exact h.2.1

theorem accepts_rst {s : State} {p : PortIn} (h : accepts s p = true) : p.rst = false := by
  simp [accepts, inReady] at h
  exact h.2.2

theorem handshake_pend {s : State} {p : PortIn} (h : handshake s p = true) : s.pend = true := by
  simp [handshake] at h
  exact h.1.1

theorem handshake_rst {s : State} {p : PortIn} (h : handshake s p = true) : p.rst = false := by
  simp [handshake] at h
  exact h.2

/-- Sampling pins that fit keeps a state legal. -/
theorem sampled_legal {s : State} (hl : s.Legal) (hp : (pinsOf s).Fits s.cfg) : (sampled s).Legal :=
  ⟨hl.1, ⟨hl.2.1.1, hl.2.1.2.1, hp.2.2⟩, hl.2.2⟩

/-- With nothing to drive, the pins of a legal state fit. -/
theorem pinsOf_fits_of_nil {s : State} (hl : s.Legal) (h : s.inputs = []) : (pinsOf s).Fits s.cfg := by
  rw [pinsOf, h]
  exact ⟨by positivity, by positivity, hl.2.1.2.2⟩

/-- What an edge does once the configuration and the pins have been checked. -/
theorem step_checked {s : State} (hc : s.cfg.wf) (hp : (pinsOf s).Fits s.cfg) :
    step s =
      if (pinsOf s).rst then .next (sampled s).resetPin
      else if accepts s (pinsOf s) then exec (decode s.cfg.wT ((pinsOf s).word s.cfg.wT)) (sampled s)
      else if handshake s (pinsOf s) then ifLegal (sampled s) (.next (sampled s).takeEvent)
      else ifLegal (sampled s) (.next (sampled s)) := by
  have hc' : (sampled s).cfg.wf := hc
  have hp' : (pinsOf s).Fits (sampled s).cfg := hp
  rw [step, clockEdge, if_neg (not_not.mpr hc'), if_neg (not_not.mpr hp')]
  rfl

theorem step_reset {s : State} (hc : s.cfg.wf) (hp : (pinsOf s).Fits s.cfg) (hr : (pinsOf s).rst = true) :
    step s = .next (sampled s).resetPin := by
  rw [step_checked hc hp, if_pos hr]

/-- An edge that accepts a command is that command, whatever the state; an ill-formed configuration is refused by both. -/
theorem step_accept {s : State} (hp : (pinsOf s).Fits s.cfg) (ha : accepts s (pinsOf s) = true) :
    step s = exec (decode s.cfg.wT ((pinsOf s).word s.cfg.wT)) (sampled s) := by
  by_cases hc : s.cfg.wf
  · rw [step_checked hc hp, accepts_rst ha, ha]
    rfl
  · have hc' : ¬ (sampled s).cfg.wf := hc
    rw [step, clockEdge, if_pos hc', exec_eq_command, command, ifLegal, if_pos hc']

theorem step_handshake {s : State} (hl : s.Legal) (hp : (pinsOf s).Fits s.cfg) (hh : handshake s (pinsOf s) = true) :
    step s = .next (sampled s).takeEvent := by
  have ha : accepts s (pinsOf s) = false := by simp [accepts, inReady, handshake_pend hh]
  rw [step_checked hl.1 hp, handshake_rst hh, ha, hh]
  exact ifLegal_of_legal (sampled_legal hl hp) _

theorem step_quiet {s : State} (hl : s.Legal) (hp : (pinsOf s).Fits s.cfg) (hr : (pinsOf s).rst = false)
    (ha : accepts s (pinsOf s) = false) (hh : handshake s (pinsOf s) = false) : step s = .next (sampled s) := by
  rw [step_checked hl.1 hp, hr, ha, hh]
  exact ifLegal_of_legal (sampled_legal hl hp) _

/-- Pins that do not fit are refused, once the configuration is well formed. -/
theorem step_pins {s : State} (hc : s.cfg.wf) (hp : ¬ (pinsOf s).Fits s.cfg) : step s = .refused .pinOutOfRange := by
  have hc' : (sampled s).cfg.wf := hc
  have hp' : ¬ (pinsOf s).Fits (sampled s).cfg := hp
  rw [step, clockEdge, if_neg (not_not.mpr hc'), if_pos hp']

/-- Only a well-formed configuration and pins that fit get a meaning. -/
theorem step_next_checked {s s' : State} (h : step s = .next s') : s.cfg.wf ∧ (pinsOf s).Fits s.cfg := by
  rw [step, clockEdge] at h
  split_ifs at h with h1 h2 <;> exact ⟨h1, h2⟩

/-- Everything a step that goes on can do: the reset pin, an accepted command, the message handshake, or nothing
(60_exceptions.md R145, R150). -/
theorem step_cases {s s' : State} (h : step s = .next s') :
    s.cfg.wf ∧ (pinsOf s).Fits s.cfg ∧
    (((pinsOf s).rst = true ∧ s' = (sampled s).resetPin) ∨
    (accepts s (pinsOf s) = true ∧ (sampled s).ReadyFor (decode s.cfg.wT ((pinsOf s).word s.cfg.wT)) ∧
      s' = effect (decode s.cfg.wT ((pinsOf s).word s.cfg.wT)) (sampled s)) ∨
    (handshake s (pinsOf s) = true ∧ (sampled s).Legal ∧ s' = (sampled s).takeEvent) ∨
    ((pinsOf s).rst = false ∧ accepts s (pinsOf s) = false ∧ handshake s (pinsOf s) = false ∧ (sampled s).Legal ∧
      s' = sampled s)) := by
  obtain ⟨hc, hp⟩ := step_next_checked h
  refine ⟨hc, hp, ?_⟩
  rw [step_checked hc hp] at h
  split_ifs at h with hr ha hh
  · cases h
    exact .inl ⟨hr, rfl⟩
  · obtain ⟨hf, he⟩ := exec_next h
    exact .inr (.inl ⟨ha, hf, he⟩)
  · obtain ⟨hl, hk⟩ := ifLegal_next h
    cases hk
    exact .inr (.inr (.inl ⟨hh, hl, rfl⟩))
  · obtain ⟨hl, hk⟩ := ifLegal_next h
    cases hk
    exact .inr (.inr (.inr ⟨by simpa using hr, by simpa using ha, by simpa using hh, hl, rfl⟩))

end Sys2Proof.Machine
end

