-- ==== Sys2Proof/Tests/Slice0.lean ====
section
/-! SUPPORT. The model's own tests. Expected results come from the vectors of 95_test_vectors.md (each named below), from the worked
examples of the section files, and from opcode_table.json. After them, one witness per statement with hypotheses. -/

namespace Sys2Proof.Tests

open Sys2Proof.Machine

/-! ## Helpers -/

/-- The outcome is the next state `t`. -/
def nextIs (o : Host.Outcome State Fault Refusal) (t : State) : Bool :=
  match o with
  | .next s => decide (s = t)
  | _ => false

/-- A state of the instance as the vectors write one. -/
def mk (st : DecState) (cnt : Count) (acc : Acc) (ref : Nat) : State :=
  { State.reset with st := st, cnt := cnt, acc := acc, ref := ref }

/-- The start state of table EN and of FSM-3 to FSM-5. -/
def mid : State := mk .collectingBits 10 0x2aa 4000
/-- The start state of FSM-6. -/
def lastData : State := mk .collectingBits 53 0x015549937fa12eb 20000
/-- The start state of FSM-7 to FSM-9. -/
def atStop : State := mk .awaitingStop 54 0x02aa9326ff425d6 20370
/-- The start state of FSM-10 to FSM-12. -/
def atChecksum : State := mk .collectingChecksum 55 0x0555264dfe84bad 20990
/-- The start state of FSM-13 and of table CS. -/
def atLast : State := { mk .collectingChecksum 58 0x2aa9326ff425d6a 22000 with now := 1700000000 }
/-- The same under `CS_MODE = PLUGGABLE f`. -/
def atLastPluggable : State := { atLast with cfg := wsdCorePluggable }
/-- The event of FSM-13. -/
def event : Message := ⟨0x4c9bfd, 0x0975a, 0x5, 1700000000⟩
/-- The end state of program P1 before the handshake (PIN-2, HZ-8). -/
def pending : State := { mk .awaitingStart 0 0 18430 with pend := true, mq := event }

/-- The pins at an edge that offers `i`. -/
def offers (i : Instr) : PortIn := PortIn.offer 32 (encode 32 i) 7

/-- `s` with the pins `p` at the next edge. -/
def withPins (s : State) (p : PortIn) : State := { s with inputs := [p] }

/-! ## Well-formedness: an ill-formed configuration for each check W1 to W5 (00_scope.md R6) -/

theorem test_wf_instances : wsdCore.wf ∧ wsdCorePluggable.wf := by decide
theorem test_w1_refuses : ¬ Cfg.w1 { wsdCore with data := ⟨150, 65⟩ } ∧ ¬ Cfg.wf { wsdCore with data := ⟨150, 65⟩ } := by decide
theorem test_w2_refuses : ¬ Cfg.w2 { wsdCore with stop := ⟨400, 700⟩ } ∧ ¬ Cfg.wf { wsdCore with stop := ⟨400, 700⟩ } := by decide
theorem test_w3_refuses : ¬ Cfg.w3 { wsdCore with one := ⟨60, 200⟩ } ∧ ¬ Cfg.wf { wsdCore with one := ⟨60, 200⟩ } := by decide
theorem test_w4_refuses :
    ¬ Cfg.w4 { wsdCore with start := ⟨700, 2 ^ 32⟩ } ∧ ¬ Cfg.wf { wsdCore with start := ⟨700, 2 ^ 32⟩ } := by decide
theorem test_w5_refuses :
    ¬ Cfg.w5 { wsdCore with wT := 0 } ∧ ¬ Cfg.wf { wsdCore with wT := 0 } ∧ ¬ Cfg.w5 { wsdCore with wTS := 0 } ∧
    ¬ Cfg.wf { wsdCore with wTS := 0 } := by decide
/-- Other widths, and a window with a negative bound, pass; a width too small for the windows fails W4. -/
theorem test_wf_other_configurations :
    Cfg.wf { wsdCore with wT := 16, wTS := 8 } ∧ Cfg.wf { wsdCore with one := ⟨-5, 190⟩ } ∧ ¬ Cfg.wf { wsdCore with wT := 10 } :=
  ⟨by decide, by decide, by decide⟩
/-- An operand that the width cannot express. -/
theorem test_instr_wf_refuses : ¬ Instr.wf 32 (.pulse (2 ^ 32) 0) ∧ ¬ Instr.wf 16 (.reset 0 (2 ^ 16)) := by decide
theorem test_reset_canonical : Instr.canonical (.reset 0 0) ∧ ¬ Instr.canonical (.reset 5 7) := by
  simp [Instr.canonical]

/-! ## Decoding: words written out bit by bit from 30_encoding.md R62 and opcode_table.json -/

/-- opcode_table.json, PULSE 0, 1000: op 00, s 0, d 1111101000. -/
theorem test_decode_pulse :
    decode 32 (0b00#2 ++ 0b00000000000000000000000000000000#32 ++ 0b00000000000000000000001111101000#32).toNat =
      .pulse 0 1000 := by decide
/-- CLC-1: `0_00001388_000002bb` is PULSE 5000, 699. -/
theorem test_decode_pulse_fields : decode 32 0x000001388000002bb = .pulse 5000 699 := by decide
/-- opcode_table.json, RESET, and RS-5: `1_12345678_9abcdef0`. -/
theorem test_decode_reset :
    decode 32 0x10000000000000000 = .reset 0 0 ∧ decode 32 0x1123456789abcdef0 = .reset 0x12345678 0x9abcdef0 := by decide
/-- opcode_table.json, `.op 2, 0, 0`, and IL-2: `3_00000005_00000007`. -/
theorem test_decode_illegalOp :
    decode 32 0x20000000000000000 = .illegalOp false 0 0 ∧ decode 32 0x30000000500000007 = .illegalOp true 5 7 := by decide
/-- 30_encoding.md R62 at `W_T = 16`: op in bits 33:32, s in 31:16, d in 15:0. -/
theorem test_decode_other_width :
    decode 16 0x0000003e8 = .pulse 0 1000 ∧ decode 16 0x112345678 = .reset 0x1234 0x5678 ∧
    encode 16 (.illegalOp true 5 7) = 0x300050007 := by decide
theorem test_encode_examples :
    encode 32 (.pulse 0 1000) = 0x000000000000003e8 ∧ encode 32 (.reset 0 0) = 0x10000000000000000 ∧
    encode 32 (.illegalOp false 0 0) = 0x20000000000000000 := by decide
theorem test_decode_table_word :
    decodeTableWord 72 0x10000000000000000 = some (.reset 0 0) ∧ decodeTableWord 72 (2 ^ 66) = none ∧
    decodeTableWord 66 0x000001388000002bb = some (.pulse 5000 699) := by decide

/-! ## One step of each command -/

/-- FSM-1 to FSM-13 without FSM-3, FSM-4, FSM-5, which stand in the next test. -/
theorem test_pulse_transition_rows :
    nextIs (exec (.pulse 0 100) State.reset) { mk .awaitingStart 0 0 100 with resp := some .unexpectedSignal } ∧
    nextIs (exec (.pulse 0 1000) State.reset) { mk .collectingBits 0 0 1000 with resp := some .accepted } ∧
    nextIs (exec (.pulse 20270 100) lastData)
      { mk .awaitingStop 54 0x02aa9326ff425d6 20370 with resp := some .accepted } ∧
    nextIs (exec (.pulse 20490 100) atStop)
      { mk .awaitingStop 54 0x02aa9326ff425d6 20590 with resp := some .unexpectedSignal } ∧
    nextIs (exec (.pulse 20565 500) atStop) { mk .awaitingStart 0 0 21065 with resp := some .invalidInterval } ∧
    nextIs (exec (.pulse 20490 500) atStop)
      { mk .collectingChecksum 55 0x0555264dfe84bad 20990 with resp := some .accepted } ∧
    nextIs (exec (.pulse 21260 450) atChecksum)
      { mk .collectingChecksum 55 0x0555264dfe84bad 21710 with resp := some .unexpectedSignal } ∧
    nextIs (exec (.pulse 21000 100) atChecksum) { mk .awaitingStart 0 0 21100 with resp := some .invalidInterval } ∧
    nextIs (exec (.pulse 21260 100) atChecksum)
      { mk .collectingChecksum 56 0x0aaa4c9bfd0975a 21360 with resp := some .accepted } ∧
    nextIs (exec (.pulse 22120 100) atLast)
      { atLast with st := .awaitingStart, cnt := 0, acc := 0, ref := 22220, pend := true, mq := event,
                    resp := some .completed } := by decide

/-- FSM-3 to FSM-5, and rows of table EN at the window bounds: EN-1, EN-5, EN-6, EN-8, EN-9, EN-11, EN-12, EN-14, EN-15, EN-17. -/
theorem test_pulse_encoder_bounds :
    (let bit (acc : Acc) (ref : Nat) := { mk .collectingBits 11 acc ref with resp := some .accepted }
     let lost (ref : Nat) := { mk .awaitingStart 0 0 ref with resp := some .invalidInterval }
     nextIs (exec (.pulse 4120 20) mid) { mk .collectingBits 10 0x2aa 4140 with resp := some .unexpectedSignal } ∧
     nextIs (exec (.pulse 4195 100) mid) (lost 4295) ∧ nextIs (exec (.pulse 4120 100) mid) (bit 0x555 4220) ∧
     nextIs (exec (.pulse 0 100) mid) (lost 100) ∧ nextIs (exec (.pulse 4059 100) mid) (lost 4159) ∧
     nextIs (exec (.pulse 4060 100) mid) (bit 0x555 4160) ∧ nextIs (exec (.pulse 4190 100) mid) (bit 0x555 4290) ∧
     nextIs (exec (.pulse 4191 100) mid) (lost 4291) ∧ nextIs (exec (.pulse 4199 100) mid) (lost 4299) ∧
     nextIs (exec (.pulse 4200 100) mid) (bit 0x554 4300) ∧ nextIs (exec (.pulse 4340 100) mid) (bit 0x554 4440) ∧
     nextIs (exec (.pulse 4341 100) mid) (lost 4441) ∧
     nextIs (exec (.pulse 4294967295 100) mid) (lost 4294967395)) := by decide

/-- CS-2 and CS-3: the validator is a free value, so each vector is conditional on its answer. -/
theorem test_checksum_reject (h : Config.validator 0x555264dfe84bad 0x5 = false) :
    exec (.pulse 22120 100) atLastPluggable =
      .next { atLastPluggable with st := .awaitingStart, cnt := 0, acc := 0, ref := 22220, resp := some .checksumReject } := by
  show (Host.Outcome.next (if Config.validator 0x555264dfe84bad 0x5 = true then _ else _) : Host.Outcome State Fault Refusal) = _
  rw [h]
  rfl

/-- RS-2, RS-3 and RS-5. -/
theorem test_reset :
    nextIs (exec (.reset 0 0) (mk .awaitingStart 0 0 1234)) { mk .awaitingStart 0 0 1234 with resp := some .resetDone } ∧
    nextIs (exec (.reset 0 0) (mk .collectingBits 7 0x55 3000)) { mk .awaitingStart 0 0 3000 with resp := some .resetDone } ∧
    nextIs (exec (.reset 0x12345678 0x9abcdef0) (mk .collectingBits 7 0x55 3000))
      { mk .awaitingStart 0 0 3000 with resp := some .resetDone } := by decide

/-- IL-1 and IL-3. -/
theorem test_illegalOp :
    nextIs (exec (.illegalOp false 0 0) (mk .collectingBits 7 0x55 3000))
      { mk .collectingBits 7 0x55 3000 with resp := some .illegalOp } ∧
    nextIs (exec (.illegalOp true 0xffffffff 0xffffffff) atStop) { atStop with resp := some .illegalOp } := by decide

/-! ## One edge -/

/-- PIN-1 to PIN-3: reset wins over a pending event and over an offered command. -/
theorem test_reset_pin :
    nextIs (step (withPins (mk .collectingBits 7 0x55 3000) (PortIn.assertRst 0))) State.reset ∧
    nextIs (step (withPins pending { offers (.pulse 20000 1000) with rst := true, now := 0 })) State.reset := by decide

/-- HZ-8 and program P1 line 62: the pending event holds the input; the handshake takes it; then the command is accepted. -/
theorem test_pending_event :
    nextIs (step (withPins pending (offers (.pulse 20000 1000)))) { pending with now := 7 } ∧
    nextIs (step (withPins pending (PortIn.ready 7))) { pending with now := 7, pend := false } ∧
    nextIs (step (withPins { pending with pend := false } (offers (.pulse 20000 1000))))
      { pending with st := .collectingBits, ref := 21000, pend := false, now := 7, resp := some .accepted } := by decide

/-- The word the host places is the one the next step runs. -/
theorem test_withFetchWord :
    nextIs (step (State.reset.withFetchWord 66 0x000000000000003e8))
      { mk .collectingBits 0 0 1000 with resp := some .accepted } := by decide

/-- The instance's windows at `W_T = 16`, `W_TS = 8`: the same rules, and what 16 bits cannot express is refused
(30_encoding.md R63; 93_implementation_defined.md S9). -/
def narrow : State := { mid with cfg := { wsdCore with wT := 16, wTS := 8 } }
theorem test_other_width :
    nextIs (exec (.pulse 4120 100) narrow) { narrow with cnt := 11, acc := 0x555, ref := 4220, resp := some .accepted } ∧
    nextIs (exec (.pulse 65535 1200) { narrow with st := .awaitingStart, cnt := 0, acc := 0 })
      { narrow with st := .collectingBits, cnt := 0, acc := 0, ref := 66735, resp := some .accepted } := by decide

/-- The reason of a refusal, if the outcome is one. -/
def reasonOf (o : Host.Outcome State Fault Refusal) : Option Refusal :=
  match o with
  | .refused r => some r
  | _ => none

theorem test_width_refusals :
    reasonOf (exec (.pulse 65536 100) narrow) = some .operandOutOfRange ∧
    reasonOf (exec (.pulse 4120 100) { narrow with ref := 2 ^ 17 }) = some .registerOutOfRange ∧
    reasonOf (step (withPins narrow (PortIn.idle 256))) = some .pinOutOfRange := by decide

/-! ## Accumulator, packet decoder, rendering -/

/-- AP-3 and AP-4. -/
theorem test_append :
    appendAcc 0x5 true = 0xb ∧ bufferOf 0xb 4 = [true, false, true, true] ∧
    appendAcc 0x3ffffffffffffff true = 0x7ffffffffffffff := by decide

/-- DEC-1, DEC-2, DEC-7, DEC-8, DEC-10 and DEC-11. -/
theorem test_packet_decoder :
    decodeEvent 0x555164dfe84bad5 9 = ⟨0x2c9bfd, 0x0975a, 0x5, 9⟩ ∧
    decodeEvent 0x555264dfe84bad5 9 = ⟨0x4c9bfd, 0x0975a, 0x5, 9⟩ ∧
    decodeEvent 0x800000 9 = ⟨1, 0, 0, 9⟩ ∧ decodeEvent 0x400000 9 = ⟨0, 0x80000, 0, 9⟩ ∧
    decodeEvent 0x8 9 = ⟨0, 1, 0x8, 9⟩ ∧ decodeEvent 0x1 9 = ⟨0, 0, 0x1, 9⟩ := by decide

/-- Section 2.5: the raw groups and the rendering of DEC-2, and the rendering of DEC-7. -/
theorem test_render :
    rawTuples 0x0975a =
      [(false, false, false, false), (true, false, false, true), (false, true, true, true), (false, true, false, true),
       (true, false, true, false)] ∧
    renderId 0x4c9bfd = ['4', 'c', '9', 'b', 'f', 'd'] ∧ renderId 1 = ['0', '0', '0', '0', '0', '1'] := by decide

/-! ## Assembler -/

/-- The commands of lines, if no line is refused. -/
def commandsOf (texts : List (List Char)) : List Instr :=
  match assemble 32 texts with
  | .ok is => is
  | .error _ => []

/-- Program P4 lines 4 to 10, with a comment and a hexadecimal number (30_encoding.md R77 to R79). -/
theorem test_assemble :
    commandsOf
      [['S', 'T', 'A', 'R', 'T', ' ', '1', '0', '0'], ['B', 'I', 'T', '1', ' ', ';', ' ', 'x'], ['B', 'I', 'T', '0'],
       ['.', 'o', 'p', ' ', '3', ',', ' ', '5', ',', ' ', '7'], ['B', 'I', 'T', '1'],
       ['P', 'U', 'L', 'S', 'E', ' ', '0', 'x', '7', 'd', '0', ',', ' ', '1', '0', '0', '0'], ['B', 'I', 'T', '0'],
       ['[', '1', ',', ' ', '2', ']']] =
      [.pulse 100 1000, .pulse 1220 100, .pulse 1590 100, .illegalOp true 5 7, .pulse 1810 100, .pulse 2000 1000,
       .pulse 3270 100, .pulse 1 2] := by decide

/-- The refusal of lines, if some line is refused. -/
def refusalOf (texts : List (List Char)) : Option AsmError :=
  match assemble 32 texts with
  | .ok _ => none
  | .error e => some e

/-- The refusal names the line (30_encoding.md R79). -/
theorem test_assemble_refuses :
    refusalOf [['R', 'E', 'S', 'E', 'T'], ['B', 'I', 'T', '2']] = some ⟨2, .unparsable⟩ ∧
    refusalOf [['P', 'U', 'L', 'S', 'E', ' ', '4', '2', '9', '4', '9', '6', '7', '2', '9', '6', ',', '1']] =
      some ⟨1, .outOfRange⟩ := by decide

/-- A tab inside FRAME's bit string does not parse, and spaces in it are ignored (30_encoding.md R78; entry 13). -/
theorem test_frame_bits :
    parseBits (' ' :: '0' :: ' ' :: List.replicate 58 '1') = some (false :: List.replicate 58 true) ∧
    parseBits ('0' :: '\t' :: List.replicate 58 '1') = none := by decide

/-! ## Witnesses: for each statement with hypotheses, a state and operands that meet them all -/

theorem witness_DecodeEncodeAgree :
    (Instr.pulse 0 (2 ^ 32 - 1)).wf 32 ∧ (Instr.reset 5 7).wf 16 ∧ (Instr.illegalOp true 5 7).wf 3 ∧
    2 ^ 66 - 1 < 2 ^ (2 * 32 + 2) := by decide

theorem witness_OpCodeSelectsCommand :
    0x000001388000002bb / 2 ^ (2 * 32) % 4 = 0 ∧ 0x1123456789abcdef0 / 2 ^ (2 * 32) % 4 = 1 ∧
    0x200000000 / 2 ^ (2 * 16) % 4 = 2 ∧ 0x30000000500000007 / 2 ^ (2 * 32) % 4 = 3 := by decide

theorem witness_OneFixedLength :
    2 ^ 66 - 1 < 2 ^ (2 * 32 + 2) ∧ 2 ^ (2 * 32 + 2) ≤ 2 ^ 66 ∧ 2 ^ 66 - 1 < 2 ^ 66 := by decide

/-- AcceptanceIsWindowMembership, AtMostOneComparator and BitOfEveryDelta ask only for a well-formed configuration. -/
theorem witness_well_formed_configuration : wsdCore.wf := by decide

theorem witness_StatusCodesDistinctAndNeverSix : Status.accepted.code = Status.accepted.code := rfl

/-- Both ends of the range of delta at the instance's width. -/
theorem witness_DeltaFitsItsRegister : 2 ^ 32 - 1 < 2 ^ 32 ∧ 0x1fffffffe ≤ 2 ^ (32 + 1) - 2 ∧ 0 < 2 ^ 32 := by decide

/-- The statements that ask only for a ready state: EveryPulseMovesReference, PulseStatusPriority, ResetCommandClearsBuffer,
ReservedOpChangesNothing, EveryCommandCompletesWithOneResponse (its second clause asks for less); and the first hypothesis of every row of PULSE. -/
theorem witness_ready :
    State.reset.ReadyFor (.pulse 0 1000) ∧ mid.ReadyFor (.pulse 4120 100) ∧ mid.ReadyFor (.reset 5 (2 ^ 32 - 1)) ∧
    mid.ReadyFor (.illegalOp true 5 7) ∧ lastData.ReadyFor (.reset 0 0) ∧ narrow.ReadyFor (.pulse 65535 0) :=
  ⟨by decide, by decide, by decide, by decide, by decide, by decide⟩

theorem witness_UnexpectedSignalMovesOnlyReference : mid.ReadyFor (.pulse 4120 151) ∧ ¬ ok mid.cfg mid.st 151 := by decide

theorem witness_StartPulseOpensFrame :
    State.reset.ReadyFor (.pulse 5000 700) ∧ ok State.reset.cfg State.reset.st 700 ∧ State.reset.st = .awaitingStart := by decide

theorem witness_InvalidIntervalDiscardsFrame :
    mid.ReadyFor (.pulse 4191 150) ∧ ok mid.cfg mid.st 150 ∧ mid.st ≠ .awaitingStart ∧
    enc mid.cfg (((4191 : Nat) : Int) - mid.ref) = .invalid := by decide

theorem witness_DataPulseAppendsBit :
    (mid.ReadyFor (.pulse 4060 65) ∧ ok mid.cfg mid.st 65 ∧ mid.st = .collectingBits ∧
      enc mid.cfg (((4060 : Nat) : Int) - mid.ref) = .bit true) ∧
    (lastData.ReadyFor (.pulse 20340 150) ∧ ok lastData.cfg lastData.st 150 ∧ lastData.st = .collectingBits ∧
      enc lastData.cfg (((20340 : Nat) : Int) - lastData.ref) = .bit false ∧ lastData.cnt.toNat + 1 = 54) :=
  ⟨by decide, by decide⟩

theorem witness_StopPulseAppendsLastMessageBit :
    atStop.ReadyFor (.pulse 20490 400) ∧ ok atStop.cfg atStop.st 400 ∧ atStop.st = .awaitingStop ∧
    enc atStop.cfg (((20490 : Nat) : Int) - atStop.ref) = .bit true := by decide

theorem witness_ChecksumPulseAppendsBit :
    atChecksum.ReadyFor (.pulse 21260 65) ∧ ok atChecksum.cfg atChecksum.st 65 ∧ atChecksum.st = .collectingChecksum ∧
    enc atChecksum.cfg (((21260 : Nat) : Int) - atChecksum.ref) = .bit false ∧ atChecksum.cnt.toNat < 58 := by
  decide

theorem witness_LastChecksumPulseCompletesFrame :
    (atLast.ReadyFor (.pulse 22120 100) ∧ ok atLast.cfg atLast.st 100 ∧ atLast.st = .collectingChecksum ∧
      enc atLast.cfg (((22120 : Nat) : Int) - atLast.ref) = .bit true ∧ atLast.cnt.toNat = 58) ∧
    (atLastPluggable.ReadyFor (.pulse 22120 100) ∧ ok atLastPluggable.cfg atLastPluggable.st 100 ∧ atLastPluggable.st = .collectingChecksum ∧
      enc atLastPluggable.cfg (((22120 : Nat) : Int) - atLastPluggable.ref) = .bit true ∧
      atLastPluggable.cnt.toNat = 58) :=
  ⟨by decide, by decide⟩

theorem witness_StartPulseMidFrameOnlyMovesReference :
    mid.ReadyFor (.pulse 5000 1200) ∧ mid.st ≠ .awaitingStart ∧ mid.cfg.start.lo ≤ ((1200 : Nat) : Int) ∧
    ((1200 : Nat) : Int) ≤ mid.cfg.start.hi := by decide

theorem witness_TooEarlyOrTooLatePulseEndsFrame :
    (mid.ReadyFor (.pulse 4059 100) ∧ mid.ReadyFor (.pulse 4341 100)) ∧ mid.cfg.zero = wsdCore.zero ∧
    mid.cfg.one = wsdCore.one ∧ ok mid.cfg mid.st 100 ∧ mid.st ≠ .awaitingStart ∧ 4059 < mid.ref + 60 ∧ mid.ref + 340 < 4341 :=
  ⟨⟨by decide, by decide⟩, by decide, by decide, by decide, by decide, by decide, by decide⟩

theorem witness_ReferenceUnobservableInAwaitingStart :
    State.reset.st = .awaitingStart ∧ State.reset.ref < 2 ^ (State.reset.cfg.wT + 1) ∧
    2 ^ 33 - 1 < 2 ^ (State.reset.cfg.wT + 1) := by decide

theorem witness_ResetCommandIsIdempotent :
    State.reset.ReadyFor (.reset 0 0) ∧ State.reset.ReadyFor (.reset 5 7) ∧ State.reset.st = .awaitingStart ∧ State.reset.cnt = 0 :=
  ⟨by decide, by decide, by decide, by decide⟩

/-- States for the ways a command is stopped: W3 broken, `cnt` above 59, `ref` beyond 33 bits, `cnt` at 59. -/
def badCfg : State := { mid with cfg := { wsdCore with one := ⟨60, 200⟩ } }
def cnt60 : State := { mid with cnt := 60 }
def wideRef : State := { mid with ref := 2 ^ 33 }
def cnt59 : State := { mid with cnt := 59 }

/-- One state for each way a command is stopped. -/
theorem witness_CommandPerformedExactlyWhenReady :
    ¬ badCfg.cfg.wf ∧ (cnt60.cfg.wf ∧ 60 ≤ cnt60.cnt.toNat) ∧
    (wideRef.cfg.wf ∧ wideRef.cnt.toNat < 60 ∧ ¬ wideRef.Fits) ∧
    (cnt59.cfg.wf ∧ cnt59.cnt.toNat < 60 ∧ cnt59.Fits ∧ ¬ cnt59.Inv) ∧
    (mid.Legal ∧ ¬ (Instr.pulse 0 (2 ^ 32)).wf mid.cfg.wT) ∧
    (pending.Legal ∧ (Instr.reset 0 0).wf pending.cfg.wT ∧ pending.pend = true) :=
  ⟨by decide, by decide, by decide, by decide, by decide, by decide⟩

theorem witness_CommandFrame :
    nextIs (exec (.pulse 4120 100) mid) { mk .collectingBits 11 0x555 4220 with resp := some .accepted } := by decide

theorem witness_CommandsPreserveInvariants :
    mid.Inv ∧ nextIs (exec (.pulse 4120 100) mid) { mk .collectingBits 11 0x555 4220 with resp := some .accepted } := by decide

/-- StepKeepsInvariants, ResponseForOneCycle: a step that goes on, from a reference in range. -/
theorem witness_StepKeepsInvariants :
    mid.RefInRange ∧
    nextIs (step (withPins mid (offers (.pulse 4120 100))))
      { mk .collectingBits 11 0x555 4220 with resp := some .accepted, now := 7 } := by decide

theorem witness_ResetPinWins :
    (withPins mid (PortIn.assertRst 3)).inputs = [PortIn.assertRst 3] ∧ (PortIn.assertRst 3).Fits mid.cfg ∧ (PortIn.assertRst 3).rst = true ∧ mid.cfg.wf := by decide

theorem witness_StepRunsOfferedCommand :
    (withPins mid (offers (.reset 0 0))).inputs = [offers (.reset 0 0)] ∧ (offers (.reset 0 0)).Fits mid.cfg ∧ (offers (.reset 0 0)).rst = false ∧
    (offers (.reset 0 0)).inValid = true ∧ mid.pend = false ∧
    (withPins mid (PortIn.idle (2 ^ 64))).cfg.wf ∧ ¬ (PortIn.idle (2 ^ 64)).Fits (withPins mid (PortIn.idle (2 ^ 64))).cfg :=
  ⟨rfl, by decide, rfl, rfl, rfl, by decide, by decide⟩

theorem witness_FetchedWordRunsNext :
    0x10000000000000000 < 2 ^ (2 * State.reset.cfg.wT + 2) ∧ State.reset.now < 2 ^ State.reset.cfg.wTS := by decide

theorem witness_PendingEventHoldsInput :
    (withPins pending (offers (.reset 0 0))).Legal ∧ (withPins pending (offers (.reset 0 0))).pend = true ∧
    (withPins pending (offers (.reset 0 0))).inputs = [offers (.reset 0 0)] ∧ (offers (.reset 0 0)).Fits pending.cfg ∧ (offers (.reset 0 0)).rst = false ∧
    (offers (.reset 0 0)).msgReady = false := by decide

theorem witness_HandshakeTakesEvent :
    (nextIs (step (withPins pending (PortIn.idle 7))) { pending with now := 7 } ∧
      (withPins pending (PortIn.idle 7)).pend = true ∧ (pinsOf (withPins pending (PortIn.idle 7))).rst = false ∧
      (pinsOf (withPins pending (PortIn.idle 7))).msgReady = false) ∧
    (withPins pending (PortIn.ready 7)).Legal ∧ (withPins pending (PortIn.ready 7)).pend = true ∧
    (withPins pending (PortIn.ready 7)).inputs = [PortIn.ready 7] ∧ (PortIn.ready 7).Fits pending.cfg ∧ (PortIn.ready 7).rst = false ∧
    (PortIn.ready 7).msgReady = true :=
  ⟨by decide, by decide⟩

theorem witness_IdleKeepsAllState :
    ((withPins mid (PortIn.idle 7)).Ready ∧ (withPins mid (PortIn.idle 7)).inputs = [PortIn.idle 7] ∧
      (PortIn.idle 7).Fits mid.cfg ∧ (PortIn.idle 7).rst = false ∧ (PortIn.idle 7).inValid = false) ∧
    (pending.Legal ∧ pending.inputs = []) :=
  ⟨by decide, by decide⟩

theorem witness_OnlyCommandResetOrHandshakeAdvances :
    (let s := withPins pending (offers (.reset 0 0))
     nextIs (step s) { pending with now := 7 } ∧ (pinsOf s).rst = false ∧ accepts s (pinsOf s) = false ∧
       handshake s (pinsOf s) = false) ∧
    (let s := withPins pending (PortIn.ready 7)
     nextIs (step s) { pending with now := 7, pend := false } ∧ (pinsOf s).rst = false ∧ accepts s (pinsOf s) = false ∧
       handshake s (pinsOf s) = true) := by decide

/-- OnlyCompletionRaisesEvent and MessageRegisterKeptUntilCompletion. -/
theorem witness_OnlyCompletionRaisesEvent :
    (let s := withPins atLast { offers (.pulse 22120 100) with now := 1700000000 }
     let s' := { atLast with st := .awaitingStart, cnt := 0, acc := 0, ref := 22220, pend := true, mq := event,
                             resp := some .completed }
     nextIs (step s) s' ∧ s.pend = false ∧ s'.pend = true ∧ s'.mq ≠ s.mq) := by decide

theorem witness_MessageRegisterKeptUntilCompletion :
    nextIs (step (withPins pending (PortIn.assertRst 0))) State.reset ∧ State.reset.mq ≠ pending.mq := by decide

/-- The only clause with a hypothesis: a pending event shows its message. -/
theorem witness_OutputsShowState : pending.pend = true ∧ (outputs false pending).msg = some event := by decide

theorem witness_BufferIsViewOfAccumulator : 9 < mid.cnt.toNat := by decide

theorem witness_AppendExtendsBuffer : (58 ≤ 58) ∧ (0x3ffffffffffffff : Acc) >>> 58 = 0 := by decide

theorem witness_NibbleFieldIsItsValue : (13 ≤ 13) ∧ (0 ≤ 13) := by decide

theorem witness_RawGroupsAndChecksumBits : (4 < 5) ∧ (3 < 4) := by decide

/-- DEC-3 against DEC-5 (index 11) and against DEC-11 (index 58). -/
theorem witness_EventOmitsSynchronisationBits :
    ((List.range 59).all fun i => decide (i < 12) || bufBit 0 i == bufBit 0x000800000000000 i) ∧
    ((List.range 56).all fun i => decide (i < 12) || bufBit 0 i == bufBit 1 i) ∧
    (0 : Acc) ≠ 0x000800000000000 ∧ (0 : Acc) ≠ 1 := by decide

def stampA : State := withPins atLast (offers (.pulse 22120 100))
def stampB : State := withPins { atLast with now := 5 } { offers (.pulse 22120 100) with now := 9 }
theorem witness_TimestampsInfluenceNothing :
    stampA.StampsFit ∧ stampB.StampsFit ∧ stampA.blankStamps = stampB.blankStamps ∧ stampA ≠ stampB := by
  refine ⟨⟨by decide, by decide, ?_⟩, ⟨by decide, by decide, ?_⟩, by decide, by decide⟩ <;> decide

theorem witness_FrameTakesSixtyPulses :
    mid.Inv ∧
    responses ([(4120, 20), (4260, 100)].map fun p => .pulse p.1 p.2) mid =
      some ([.unexpectedSignal, .accepted], { mk .collectingBits 11 0x555 4360 with resp := some .accepted }) ∧
    atLast.Inv ∧
    responses ([(22120, 100)].map fun p => .pulse p.1 p.2) atLast =
      some ([] ++ [.completed],
        { atLast with st := .awaitingStart, cnt := 0, acc := 0, ref := 22220, pend := true, mq := event,
                      resp := some .completed }) := by decide

/-- 59 ones, sent from time 0: the last pulse is the one of index 58. -/
theorem witness_FrameStringIsDecoded :
    State.reset.Ready ∧ State.reset.cfg = { wsdCore with wT := State.reset.cfg.wT, wTS := State.reset.cfg.wTS } ∧
    State.reset.st = .awaitingStart ∧ (List.replicate 59 true).length = 59 ∧
    (∃ is T, expandLine State.reset.cfg.wT none (.frame 0 (List.replicate 59 true)) = .ok (is, some T)) ∧
    ∀ i, i < 59 → (List.replicate 59 true)[i]? = some (bufBit 0x7ffffffffffffff i) := by
  refine ⟨by decide, rfl, rfl, rfl, ⟨_, _, rfl⟩, by decide⟩

/-- Each line's bound at its largest cursor. -/
theorem witness_PseudoInstructionTable :
    (4294967295 < 2 ^ 32 ∧ 1000 < 2 ^ 32) ∧ (4294967025 + 270 < 2 ^ 32 ∧ 100 < 2 ^ 32) ∧ 4294967175 + 120 < 2 ^ 32 ∧
    500 < 2 ^ 32 ∧ 4294967295 < 2 ^ 32 := by decide

/-- Each refusal at its smallest cursor or operand; a frame whose start fits and whose first bit does not; and a line that is
refused, unparsable or for want of a cursor, after a line that is not. -/
theorem witness_AssemblerRefusesByLine :
    (2 ^ 32 ≤ 2 ^ 32 ∨ 2 ^ 32 ≤ 0) ∧ (2 ^ 32 ≤ 4294967295 + 1 ∨ 2 ^ 32 ≤ 100) ∧ (2 ^ 32 ≤ 4294967176 + 120 ∨ 2 ^ 32 ≤ 500) ∧
    (2 ^ 32 ≤ 4294967026 + 270 ∨ 2 ^ 32 ≤ 100) ∧
    (∃ p ∈ pulsesOf 0 (.frame (2 ^ 32 - 1000) [true]), 2 ^ 32 ≤ p.1 ∨ 2 ^ 32 ≤ p.2) ∧
    ([['R', 'E', 'S', 'E', 'T']].map parseLine = [Line.reset].map some ∧
      expandAll 32 none [.reset] = .ok ([.reset 0 0], none)) ∧
    parseLine ['B', 'I', 'T', '2'] = none ∧
    (parseLine ['B', 'I', 'T', '1'] = some .bit1 ∧ expandLine 32 none .bit1 = .error .noCursor) := by
  refine ⟨by decide, by decide, by decide, by decide, by decide, ⟨by decide, rfl⟩, by decide, by decide, rfl⟩

theorem witness_InstancesShareNothing :
    stepInstance 1 [mid, State.reset] = .next [mid, State.reset] ∧ 0 ≠ 1 ∧ [mid, State.reset][1]? = some State.reset := by
  refine ⟨rfl, by decide, rfl⟩

end Sys2Proof.Tests
end

section
/-! PROOFS. The scope statements: the bit buffer as a view of the accumulator, and the WSD-CORE configuration. -/

namespace Sys2Proof.Machine

/-! ## The bit buffer (00_scope.md R10; 20_memory.md R48) -/

@[simp] theorem length_bufferOf (acc : Acc) (n : Nat) : (bufferOf acc n).length = n := by
  simp [bufferOf]

/-- Buffer index `i`, counted in arrival order from 0, is held at accumulator bit `n-1-i`. -/
theorem getElem?_bufferOf (acc : Acc) {n i : Nat} (hi : i < n) :
    (bufferOf acc n)[i]? = some (acc.getLsbD (n - 1 - i)) := by
  simp [bufferOf, List.getElem?_range hi]

theorem State.buf_eq_bufferOf (s : State) : s.buf = bufferOf s.acc s.cnt.toNat := rfl

/-- Settles O45, by the length and the indexing of `bufferOf` at the state's own `acc` and `cnt`. -/
theorem bufferIsViewOfAccumulator : Obligations.BufferIsViewOfAccumulator := by
  intro s
  rw [State.buf_eq_bufferOf]
  exact ⟨length_bufferOf s.acc s.cnt.toNat, fun _ hi => getElem?_bufferOf s.acc hi⟩

/-! ## The WSD-CORE configuration (00_scope.md R5, R6) -/

/-- The checks W1 to W5 read the widths and the windows alone, so the validator mode does not matter to them. -/
theorem wf_with_csMode (c : Cfg) (m : CsMode) : { c with csMode := m }.wf ↔ c.wf := Iff.rfl

theorem wsdCore_wf : wsdCore.wf := by decide

/-- Settles O7: the widths and windows pass by evaluation, and plugging in the validator changes neither. -/
theorem instanceConfigurationWellFormed : Obligations.InstanceConfigurationWellFormed :=
  ⟨wsdCore_wf, (wf_with_csMode wsdCore .pluggable).mpr wsdCore_wf⟩

end Sys2Proof.Machine
end

section
/-! PROOFS. The state statements: the invariants after reset, after every command and after every step; what no command
changes; and the reference in AwaitingStart (10_state.md R25, R28, R29, R31, R37 to R39). -/

namespace Sys2Proof.Machine

/-! ## The invariants INV1 to INV5, operation by operation

INV1 to INV5 speak of `st`, `cnt` and `acc` alone, so `respond`, `setRef` and `emit` keep them by definition. -/

namespace State

section InvOfSt
variable {s : State}

theorem inv_iff_of_awaitingStart (h : s.st = .awaitingStart) : s.Inv ↔ s.cnt = 0 ∧ s.acc = 0 := by
  constructor
  · rintro ⟨h1, -⟩
    exact h1 h
  · rintro ⟨hc, ha⟩
    simp [Inv, inv1, inv2, inv3, inv4, inv5, h, hc, ha]

theorem inv_iff_of_collectingBits (h : s.st = .collectingBits) : s.Inv ↔ s.cnt.toNat ≤ 53 ∧ s.inv5 := by
  simp [Inv, inv1, inv2, inv3, inv4, h]

theorem inv_iff_of_awaitingStop (h : s.st = .awaitingStop) : s.Inv ↔ s.cnt.toNat = 54 ∧ s.inv5 := by
  simp [Inv, inv1, inv2, inv3, inv4, h]

theorem inv_iff_of_collectingChecksum (h : s.st = .collectingChecksum) :
    s.Inv ↔ (55 ≤ s.cnt.toNat ∧ s.cnt.toNat ≤ 58) ∧ s.inv5 := by
  simp [Inv, inv1, inv2, inv3, inv4, h]

end InvOfSt

/-- An append shifts the live bits up by one and counts one more (42_frame_fsm.md R113; 10_state.md R36). -/
theorem append_inv5 {s : State} (b : Bool) (hc : s.cnt.toNat ≤ 58) (h5 : s.inv5) : (s.append b).inv5 := by
  intro _
  rw [append_cnt, append_acc, cnt_succ_toNat hc]
  exact appendAcc_clear s.acc b s.cnt.toNat (h5 (by omega))

theorem fullReset_inv (s : State) : s.fullReset.Inv := (inv_iff_of_awaitingStart rfl).mpr ⟨rfl, rfl⟩

theorem resetPin_inv (s : State) : s.resetPin.Inv := (inv_iff_of_awaitingStart rfl).mpr ⟨rfl, rfl⟩

theorem reset_inv : reset.Inv := (inv_iff_of_awaitingStart rfl).mpr ⟨rfl, rfl⟩

end State

/-- What holds of each of the six effects that PULSE can have, in the states where it has them, holds of PULSE
(42_frame_fsm.md R116). -/
theorem pulse_elim {P : State → Prop} (t d : Nat) (s : State)
    (unexpected : P (unexpectedSignal t d s))
    (start : s.st = .awaitingStart → P (pulseStart t d s))
    (invalid : P (invalidInterval t d s))
    (data : ∀ b, s.st = .collectingBits → P (pulseData t d b s))
    (stop : ∀ b, s.st = .awaitingStop → P (pulseStop t d b s))
    (checksum : ∀ b, s.st = .collectingChecksum → P (pulseChecksum t d b s)) : P (pulse t d s) := by
  rcases pulse_cases t d s with
    ⟨-, e⟩ | ⟨-, hs, e⟩ | ⟨-, -, -, e⟩ | ⟨b, -, -, ⟨hs, e⟩ | ⟨hs, e⟩ | ⟨hs, e⟩⟩ <;> rw [e]
  · exact unexpected
  · exact start hs
  · exact invalid
  · exact data b hs
  · exact stop b hs
  · exact checksum b hs

/-! ## The invariants, row by row of 42_frame_fsm.md R116 -/

section PulseRows
variable {t d : Nat} {b : Bool} {s : State}

theorem unexpectedSignal_inv (h : s.Inv) : (unexpectedSignal t d s).Inv := h

theorem invalidInterval_inv : (invalidInterval t d s).Inv := s.fullReset_inv

theorem complete_inv (A : Acc) : (complete A s).Inv := by
  rw [complete]
  split_ifs <;> exact s.fullReset_inv

theorem pulseStart_inv (hs : s.st = .awaitingStart) (h : s.Inv) : (pulseStart t d s).Inv := by
  obtain ⟨hc, ha⟩ := (State.inv_iff_of_awaitingStart hs).mp h
  rw [State.inv_iff_of_collectingBits rfl]
  simp [pulseStart, hc, ha]

/-- The count after the append is 54 exactly where the state moves on, so INV2 or INV3 holds of it. -/
theorem pulseData_inv (hs : s.st = .collectingBits) (h : s.Inv) : (pulseData t d b s).Inv := by
  obtain ⟨hc, h5⟩ := (State.inv_iff_of_collectingBits hs).mp h
  have hc' : (s.cnt + 1).toNat = s.cnt.toNat + 1 := cnt_succ_toNat (by omega)
  have h5' : (s.append b).inv5 := State.append_inv5 b (by omega) h5
  rw [pulseData]
  split_ifs with h54
  · exact (State.inv_iff_of_awaitingStop rfl).mpr ⟨h54, h5'⟩
  · refine (State.inv_iff_of_collectingBits (by exact hs)).mpr ⟨?_, h5'⟩
    simp only [State.setRef_cnt, State.append_cnt, State.respond_cnt, hc', Config.maxMsgBits] at h54 ⊢
    omega

theorem pulseStop_inv (hs : s.st = .awaitingStop) (h : s.Inv) : (pulseStop t d b s).Inv := by
  obtain ⟨hc, h5⟩ := (State.inv_iff_of_awaitingStop hs).mp h
  have hc' : (s.cnt + 1).toNat = s.cnt.toNat + 1 := cnt_succ_toNat (by omega)
  refine (State.inv_iff_of_collectingChecksum rfl).mpr ⟨?_, State.append_inv5 b (by omega) h5⟩
  simp only [pulseStop, State.respond_cnt, State.setSt_cnt, State.setRef_cnt, State.append_cnt, hc']
  omega

/-- The append that would reach 59 bits ends the frame instead, so INV4 holds of the count. -/
theorem pulseChecksum_inv (hs : s.st = .collectingChecksum) (h : s.Inv) : (pulseChecksum t d b s).Inv := by
  obtain ⟨⟨hlo, hhi⟩, h5⟩ := (State.inv_iff_of_collectingChecksum hs).mp h
  have hc' : (s.cnt + 1).toNat = s.cnt.toNat + 1 := cnt_succ_toNat hhi
  rw [pulseChecksum]
  split_ifs with h59
  · refine (State.inv_iff_of_collectingChecksum (by exact hs)).mpr ⟨?_, State.append_inv5 b hhi h5⟩
    simp only [State.setRef_cnt, State.append_cnt, State.respond_cnt, hc', Config.maxBits] at h59 ⊢
    omega
  · exact complete_inv _

theorem pulse_inv (t d : Nat) (h : s.Inv) : (pulse t d s).Inv :=
  pulse_elim (P := State.Inv) t d s (unexpectedSignal_inv h) (fun hs => pulseStart_inv hs h) invalidInterval_inv
    (fun _ hs => pulseData_inv hs h) (fun _ hs => pulseStop_inv hs h) (fun _ hs => pulseChecksum_inv hs h)

end PulseRows

theorem effect_inv {s : State} (i : Instr) (h : s.Inv) : (effect i s).Inv := by
  cases i with
  | pulse t d => exact pulse_inv t d h
  | reset => exact s.fullReset_inv
  | illegalOp => exact h

/-- Settles O32: the effect of each command keeps the invariants, and only effects are answered. -/
theorem commandsPreserveInvariants : Obligations.CommandsPreserveInvariants := by
  refine ⟨State.reset_inv, ?_, fun _ h => State.Inv.cnt_le h⟩
  intro s s' i h he
  obtain ⟨-, rfl⟩ := exec_next he
  exact effect_inv i h

/-! ## What a PULSE, and every command, leaves unchanged -/

/-- `s'` has the parameters and pins of `s`: the fields of the state that no command writes (10_state.md R31). -/
def SamePins (s s' : State) : Prop := s'.cfg = s.cfg ∧ s'.now = s.now ∧ s'.inputs = s.inputs

/-- `s'` has the message port's registers of `s` (10_state.md R28, R29). -/
def SameEvent (s s' : State) : Prop := s'.pend = s.pend ∧ s'.mq = s.mq

/-- `s'` is after the end of a frame that `s` was one bit short of: the event's timestamp is the level of `now` at `s`
(43_packet_decoder.md R125, R126). -/
def Completes (s s' : State) : Prop :=
  s'.resp = some .completed ∧ s.st = .collectingChecksum ∧ s.cnt.toNat = 58 ∧ s'.mq.ts = s.now

section PulseFrame
variable {t d : Nat} {b : Bool} {s : State}

theorem complete_samePins (A : Acc) : SamePins s (complete A s) := by
  rw [complete]
  split_ifs <;> exact ⟨rfl, rfl, rfl⟩

theorem pulseData_frame : SamePins s (pulseData t d b s) ∧ SameEvent s (pulseData t d b s) := by
  rw [pulseData]
  split_ifs <;> exact ⟨⟨rfl, rfl, rfl⟩, rfl, rfl⟩

theorem pulseChecksum_samePins : SamePins s (pulseChecksum t d b s) := by
  rw [pulseChecksum]
  split_ifs
  · exact ⟨rfl, rfl, rfl⟩
  · exact complete_samePins (s := (s.append b).setRef t d) _

/-- Only the 59th bit can end a frame, and a rejected frame leaves `pend` and `mq` (42_frame_fsm.md R112;
43_packet_decoder.md R126, R128). -/
theorem pulseChecksum_event (hs : s.st = .collectingChecksum) (hc : s.cnt.toNat ≤ 58) :
    SameEvent s (pulseChecksum t d b s) ∨ Completes s (pulseChecksum t d b s) := by
  rw [pulseChecksum]
  split_ifs with h59
  · exact .inl ⟨rfl, rfl⟩
  · have h58 : s.cnt.toNat = 58 := by
      simp only [State.setRef_cnt, State.append_cnt, cnt_succ_toNat hc, Config.maxBits] at h59
      omega
    rw [complete]
    split_ifs
    · exact .inr ⟨rfl, hs, h58, rfl⟩
    · exact .inl ⟨rfl, rfl⟩

theorem pulse_samePins (t d : Nat) (s : State) : SamePins s (pulse t d s) :=
  pulse_elim t d s ⟨rfl, rfl, rfl⟩ (fun _ => ⟨rfl, rfl, rfl⟩) ⟨rfl, rfl, rfl⟩
    (fun _ _ => pulseData_frame.1) (fun _ _ => ⟨rfl, rfl, rfl⟩) (fun _ _ => pulseChecksum_samePins)

theorem pulse_event (t d : Nat) (hc : s.cnt.toNat ≤ 58) : SameEvent s (pulse t d s) ∨ Completes s (pulse t d s) :=
  pulse_elim (P := fun s' => SameEvent s s' ∨ Completes s s') t d s
    (.inl ⟨rfl, rfl⟩) (fun _ => .inl ⟨rfl, rfl⟩) (.inl ⟨rfl, rfl⟩)
    (fun _ _ => .inl pulseData_frame.2) (fun _ _ => .inl ⟨rfl, rfl⟩) (fun _ hs => pulseChecksum_event hs hc)

end PulseFrame

theorem effect_samePins (i : Instr) (s : State) : SamePins s (effect i s) := by
  cases i with
  | pulse t d => exact pulse_samePins t d s
  | reset => exact ⟨rfl, rfl, rfl⟩
  | illegalOp => exact ⟨rfl, rfl, rfl⟩

/-- What a command can do to `pend` and `mq`: nothing, or complete a frame (10_state.md R28, R29). -/
theorem effect_event {s : State} (i : Instr) (hc : s.cnt.toNat ≤ 58) : SameEvent s (effect i s) ∨ Completes s (effect i s) := by
  cases i with
  | pulse t d => exact pulse_event t d hc
  | reset => exact .inl ⟨rfl, rfl⟩
  | illegalOp => exact .inl ⟨rfl, rfl⟩

/-- Settles O30: no effect writes the pins, and an effect that writes the message port completes a frame. -/
theorem commandFrame : Obligations.CommandFrame := by
  intro s s' i h
  obtain ⟨⟨⟨⟨-, -, hinv⟩, -⟩, -⟩, rfl⟩ := exec_next h
  obtain ⟨hcfg, hnow, hinputs⟩ := effect_samePins i s
  refine ⟨hcfg, hnow, hinputs, fun hresp => ?_⟩
  obtain hsame | ⟨hcompleted, -⟩ := effect_event i (State.Inv.cnt_le hinv)
  · exact hsame
  · exact absurd hcompleted hresp

/-- Settles O43: of the four things an edge can do, only the reset pin and a command can change `mq`. -/
theorem messageRegisterKeptUntilCompletion : Obligations.MessageRegisterKeptUntilCompletion := by
  intro s s' h hmq
  obtain ⟨-, -, ⟨hrst, -⟩ | ⟨-, ⟨⟨⟨-, -, hinv⟩, -⟩, -⟩, rfl⟩ | ⟨-, -, rfl⟩ | ⟨-, -, -, -, rfl⟩⟩ := step_cases h
  · exact .inl hrst
  · obtain ⟨-, hsame⟩ | ⟨hresp, hst, hcnt, -⟩ := effect_event _ (State.Inv.cnt_le hinv)
    · exact absurd hsame hmq
    · exact .inr ⟨hresp, hst, hcnt⟩
  · exact absurd rfl hmq
  · exact absurd rfl hmq

/-! ## The registers' widths and the range of the reference (10_state.md R21, R25) -/

theorem complete_ref (A : Acc) (s : State) : (complete A s).ref = s.ref := by
  rw [complete]
  split_ifs <;> rfl

theorem pulseData_ref (t d : Nat) (b : Bool) (s : State) : (pulseData t d b s).ref = endTime t d := by
  rw [pulseData]
  split_ifs <;> rfl

theorem pulseChecksum_ref (t d : Nat) (b : Bool) (s : State) : (pulseChecksum t d b s).ref = endTime t d := by
  rw [pulseChecksum]
  split_ifs
  · rfl
  · exact complete_ref _ _

/-- Every PULSE, whatever its outcome, moves the reference to its end (42_frame_fsm.md R108). -/
theorem pulse_ref (t d : Nat) (s : State) : (pulse t d s).ref = endTime t d :=
  pulse_elim (P := fun s' => s'.ref = endTime t d) t d s rfl (fun _ => rfl) rfl
    (fun b _ => pulseData_ref t d b s) (fun _ _ => rfl) (fun b _ => pulseChecksum_ref t d b s)

/-- The reference after a command is the one before it, or the end of a pulse. -/
theorem effect_ref (i : Instr) (s : State) : (effect i s).ref = s.ref ∨ (effect i s).ref = endTime i.s i.d := by
  cases i with
  | pulse t d => exact .inr (pulse_ref t d s)
  | reset => exact .inl rfl
  | illegalOp => exact .inl rfl

theorem effect_refInRange {s : State} {i : Instr} (hi : i.wf s.cfg.wT) (h : s.RefInRange) : (effect i s).RefInRange := by
  obtain ⟨hcfg, -⟩ := effect_samePins i s
  rw [State.RefInRange, hcfg]
  obtain e | e := effect_ref i s <;> rw [e]
  · exact h
  · exact (endTime_range hi.1 hi.2).2

/-- The reference is the old one or the end of a pulse, and the message's timestamp the old one or the level of `now`. -/
theorem effect_fits {s : State} {i : Instr} (h : s.ReadyFor i) : (effect i s).Fits := by
  obtain ⟨⟨⟨-, ⟨href, hts, hnow⟩, hinv⟩, -⟩, hs, hd⟩ := h
  obtain ⟨hcfg, hnow', -⟩ := effect_samePins i s
  rw [State.Fits, hcfg, hnow']
  refine ⟨?_, ?_, hnow⟩
  · obtain e | e := effect_ref i s <;> rw [e]
    · exact href
    · exact (endTime_range hs hd).1
  · obtain ⟨-, e⟩ | ⟨-, -, -, e⟩ := effect_event i (State.Inv.cnt_le hinv) <;> rw [e]
    · exact hts
    · exact hnow

theorem resetPin_fits {s : State} (h : s.now < 2 ^ s.cfg.wTS) : s.resetPin.Fits :=
  ⟨Nat.two_pow_pos _, Nat.two_pow_pos _, h⟩

/-- Settles O33: the reset pin writes a legal state, and every other step starts from one and keeps it legal. -/
theorem stepKeepsInvariants : Obligations.StepKeepsInvariants := by
  intro s s' h
  obtain ⟨hwf, ⟨-, -, hnow⟩, hcase⟩ := step_cases h
  obtain ⟨-, rfl⟩ | ⟨-, hready, rfl⟩ | ⟨-, ⟨-, hfits, hinv⟩, rfl⟩ | ⟨-, -, -, ⟨-, hfits, hinv⟩, rfl⟩ := hcase
  · exact ⟨State.resetPin_inv _, resetPin_fits hnow, rfl, hwf, fun _ => Nat.zero_le _⟩
  · have ⟨⟨⟨_, _, hinv⟩, _⟩, hi⟩ := hready
    obtain ⟨hcfg, -⟩ := effect_samePins (decode s.cfg.wT ((pinsOf s).word s.cfg.wT)) (sampled s)
    refine ⟨effect_inv _ hinv, effect_fits hready, hcfg, ?_, effect_refInRange hi⟩
    rw [hcfg]
    exact hwf
  · exact ⟨hinv, hfits, rfl, hwf, id⟩
  · exact ⟨hinv, hfits, rfl, hwf, id⟩

/-- Settles O31: the reset state is empty, its registers are all 0, and its configuration is that of WSD-CORE. -/
theorem resetStateMeetsInvariants : Obligations.ResetStateMeetsInvariants :=
  ⟨⟨wsdCore_wf, ⟨Nat.two_pow_pos _, Nat.two_pow_pos _, Nat.two_pow_pos _⟩, State.reset_inv⟩, Nat.zero_le _, rfl⟩

/-! ## The reference in AwaitingStart (10_state.md R38) -/

section OtherReference
variable {s : State} {r : Nat}

/-- The guard reads of the reference only whether its register holds it. -/
theorem command_with_ref (t d : Nat) (f : State → State) (hs : s.ref < 2 ^ (s.cfg.wT + 1))
    (hr : r < 2 ^ (s.cfg.wT + 1)) (hf : f { s with ref := r } = f s) :
    command t d { s with ref := r } f = command t d s f := by
  have hfits : ({ s with ref := r } : State).Fits ↔ s.Fits := and_congr_left fun _ => iff_of_true hr hs
  simp only [command, ifLegal, hfits, hf]

/-- In AwaitingStart both effects of PULSE write the reference before anything reads it (42_frame_fsm.md R109, R114). -/
theorem pulse_with_ref (t d : Nat) (h : s.st = .awaitingStart) : pulse t d { s with ref := r } = pulse t d s := by
  by_cases hok : ok s.cfg s.st d
  · rw [pulse_start hok h, pulse_start (s := { s with ref := r }) hok h]
    rfl
  · rw [pulse_unexpected hok, pulse_unexpected (s := { s with ref := r }) hok]
    rfl

end OtherReference

/-- Settles O24: neither the guard nor the effect of PULSE tells two references apart that its register holds. -/
theorem referenceUnobservableInAwaitingStart : Obligations.ReferenceUnobservableInAwaitingStart := by
  intro s r t d hst hs hr
  exact command_with_ref t d (pulse t d) hs hr (pulse_with_ref t d hst)

end Sys2Proof.Machine
end

section
/-! PROOFS. The memory statement: the nibbles of the bit buffer as fields of the accumulator (20_memory.md R48, R49). -/

namespace Sys2Proof.Machine

/-- The four weights of a nibble (20_memory.md R49), bit 3 the most significant. -/
theorem toNat_eq_weightedBits (v : BitVec 4) :
    v.toNat =
      (v.getLsbD 3).toNat * 8 + (v.getLsbD 2).toNat * 4 + (v.getLsbD 1).toNat * 2 + (v.getLsbD 0).toNat := by
  revert v
  decide

/-- Bit `j` of the field of nibble `k` is buffer bit `4k + (3 - j)`: the field holds the buffer bits last first
(20_memory.md R48). -/
theorem nibbleField_getLsbD {k j : Nat} (A : Acc) (hk : k ≤ 13) (hj : j ≤ 3) :
    (A.extractLsb' (55 - 4 * k) 4).getLsbD j = bufBit A (4 * k + (3 - j)) := by
  have hindex : 55 - 4 * k + j = 58 - (4 * k + (3 - j)) := by omega
  rw [BitVec.getLsbD_extractLsb', decide_eq_true (by omega), Bool.true_and, hindex, bufBit]

/-- Settles O47: a four-bit value is the sum of its weighted bits, and those of the field are the nibble's buffer bits. -/
theorem nibbleFieldIsItsValue : Obligations.NibbleFieldIsItsValue := by
  intro A k hk
  have hbit := fun j => nibbleField_getLsbD (j := j) A hk
  rw [toNat_eq_weightedBits, hbit 3 le_rfl, hbit 2 (by decide), hbit 1 (by decide), hbit 0 (by decide), nibble]
  rfl

end Sys2Proof.Machine
end

section
/-! PROOFS. The encoding statements about words and codes: the fields of a word, the decoder against the encoder, the one fixed
length, and the codes of statuses and states (30_encoding.md R62 to R67, R71, R72, R74). -/

namespace Sys2Proof

/-! ## The fields of a word (30_encoding.md R62) -/

theorem sField_lt (wT w : Nat) : sField wT w < 2 ^ wT := Nat.mod_lt _ (Nat.two_pow_pos wT)

theorem dField_lt (wT w : Nat) : dField wT w < 2 ^ wT := Nat.mod_lt _ (Nat.two_pow_pos wT)

theorem opField_toNat (wT w : Nat) : (opField wT w).toNat = w / 2 ^ (2 * wT) % 4 := BitVec.toNat_ofNat _ _

/-- The op field is the code that its two bits spell. -/
theorem opField_eq_ofNat {wT w k : Nat} (h : w / 2 ^ (2 * wT) % 4 = k) : opField wT w = BitVec.ofNat 2 k := by
  apply BitVec.eq_of_toNat_eq
  rw [opField_toNat, BitVec.toNat_ofNat, ← h, Nat.mod_mod]

/-- A word of the fixed length is its three fields: no bit of it is outside them. -/
theorem wordOf_fields {wT w : Nat} (h : w < 2 ^ (2 * wT + 2)) :
    wordOf wT (opField wT w) (sField wT w) (dField wT w) = w := by
  have htop : w / 2 ^ (2 * wT) < 4 := Nat.div_lt_of_lt_mul (by rwa [pow_add] at h)
  have hop : (opField wT w).toNat = w / 2 ^ wT / 2 ^ wT := by
    rw [opField_toNat, Nat.mod_eq_of_lt htop, two_mul, pow_add, Nat.div_div_eq_div_mul]
  rw [wordOf_eq, hop, sField, dField, Nat.div_add_mod', Nat.div_add_mod']

/-! ## The op code map and the encoder (30_encoding.md R64) -/

section DecodeFields
variable (op : BitVec 2) (s d : Nat)

@[simp] theorem decodeFields_s : (decodeFields op s d).s = s := by
  unfold decodeFields
  split_ifs <;> rfl

@[simp] theorem decodeFields_d : (decodeFields op s d).d = d := by
  unfold decodeFields
  split_ifs <;> rfl

/-- Every op code comes back from its command, the two reserved ones by the bit that tells them apart (30_encoding.md R66). -/
@[simp] theorem decodeFields_op : (decodeFields op s d).op = op := by
  have hcodes : ∀ op : BitVec 2, (decodeFields op 0 0).op = op := by decide
  have hfields : (decodeFields op s d).op = (decodeFields op 0 0).op := by
    unfold decodeFields
    split_ifs <;> rfl
  rw [hfields, hcodes]

end DecodeFields

/-- The fields of a command decode to it. -/
theorem decodeFields_of_instr (i : Instr) : decodeFields i.op i.s i.d = i := by
  cases i with
  | pulse => rfl
  | reset => rfl
  | illegalOp low => cases low <;> simp [decodeFields, Instr.op, Instr.s, Instr.d]

theorem decode_wf (wT w : Nat) : (decode wT w).wf wT := by
  rw [Instr.wf, decode, decodeFields_s, decodeFields_d]
  exact ⟨sField_lt wT w, dField_lt wT w⟩

theorem decode_encode {wT : Nat} {i : Instr} (h : i.wf wT) : decode wT (encode wT i) = i := by
  obtain ⟨hs, hd⟩ := h
  rw [decode, encode, opField_wordOf _ hs hd, sField_wordOf _ hs hd, dField_wordOf _ hd, decodeFields_of_instr]

theorem encode_decode {wT w : Nat} (h : w < 2 ^ (2 * wT + 2)) : encode wT (decode wT w) = w := by
  rw [encode, decode, decodeFields_op, decodeFields_s, decodeFields_d, wordOf_fields h]

end Sys2Proof

namespace Sys2Proof.Machine

/-- Settles O1: both maps go through the three fields, which a word of the fixed length is made of. -/
theorem decodeEncodeAgree : Obligations.DecodeEncodeAgree := fun wT =>
  ⟨fun i hi => ⟨decode_encode hi, wordOf_lt i.op hi.1 hi.2⟩, fun w hw => ⟨encode_decode hw, decode_wf wT w⟩⟩

/-! ## The op code of a word -/

/-- The fields at WSD-CORE's width as bit slices of a 66-bit word (30_encoding.md R62). -/
theorem fields_of_word66 (w : BitVec 66) :
    opField 32 w.toNat = w.extractLsb' 64 2 ∧ sField 32 w.toNat = (w.extractLsb' 32 32).toNat ∧
    dField 32 w.toNat = (w.extractLsb' 0 32).toNat := by
  refine ⟨BitVec.eq_of_toNat_eq ?_, ?_, ?_⟩
  · rw [opField_toNat, BitVec.extractLsb'_toNat, Nat.shiftRight_eq_div_pow]
  · rw [sField, BitVec.extractLsb'_toNat, Nat.shiftRight_eq_div_pow]
  · rw [dField, BitVec.extractLsb'_toNat, Nat.shiftRight_zero]

/-- Settles O2: the op field is the code its bits spell, and the map sends each code to its command. -/
theorem opCodeSelectsCommand : Obligations.OpCodeSelectsCommand := by
  constructor
  · intro wT w
    refine ⟨fun h => ?_, fun h => ?_, fun h => ?_, fun h => ?_⟩ <;> rw [decode, opField_eq_ofNat h] <;> rfl
  · intro w
    obtain ⟨hop, hs, hd⟩ := fields_of_word66 w
    rw [decode, hop, hs, hd]

/-- Settles O3, by evaluating the decoder on each word. -/
theorem sampleWordsDecode : Obligations.SampleWordsDecode := by
  unfold Obligations.SampleWordsDecode
  decide

/-! ## The one fixed length (30_encoding.md R62, R67) -/

theorem decodeNat_of_lt {wT w : Nat} (h : w < 2 ^ (2 * wT + 2)) : decodeNat wT w = .ok (decode wT w) := if_pos h

theorem decodeNat_of_ge {wT w : Nat} (h : 2 ^ (2 * wT + 2) ≤ w) : decodeNat wT w = .error .wordTooWide :=
  if_neg (Nat.not_lt.mpr h)

/-- Settles O4: `decodeNat` tests the length, and a table row's 72 bits hold a 66-bit word whole. -/
theorem oneFixedLength : Obligations.OneFixedLength := by
  refine ⟨fun wT w => ⟨decodeNat_of_lt, decodeNat_of_ge⟩, fun w hw => ?_⟩
  have h72 : w % 2 ^ 72 = w := Nat.mod_eq_of_lt (by omega)
  rw [decodeTableWord, h72, decodeNat_of_lt hw]
  rfl

/-! ## The codes of statuses and states (30_encoding.md R71, R72, R74) -/

/-- The status that a response code stands for; the reserved code 6 stands for none (30_encoding.md R72). -/
def Status.ofCode (c : BitVec 3) : Option Status :=
  if c = 0 then some .accepted
  else if c = 1 then some .unexpectedSignal
  else if c = 2 then some .invalidInterval
  else if c = 3 then some .completed
  else if c = 4 then some .resetDone
  else if c = 5 then some .checksumReject
  else if c = 7 then some .illegalOp
  else none

theorem Status.ofCode_code (a : Status) : Status.ofCode a.code = some a := by cases a <;> rfl

/-- Settles O5: a status is read back from its code, and nothing is read from code 6. -/
theorem statusCodesDistinctAndNeverSix : Obligations.StatusCodesDistinctAndNeverSix := by
  refine ⟨fun a b h => ?_, fun a h => ?_, rfl, rfl, rfl, rfl, rfl, rfl, rfl⟩
  · exact Option.some.inj (by rw [← Status.ofCode_code a, h, Status.ofCode_code b])
  · have hnone : Status.ofCode a.code = none := by rw [h]; rfl
    rw [Status.ofCode_code a] at hnone
    cases hnone

theorem DecState.code_ofCode : ∀ b : BitVec 2, (DecState.ofCode b).code = b := by decide

theorem DecState.ofCode_code (st : DecState) : DecState.ofCode st.code = st := by cases st <;> rfl

/-- Settles O6: reading a code and writing it undo each other. -/
theorem stateCodesAreAllAssigned : Obligations.StateCodesAreAllAssigned :=
  ⟨DecState.code_ofCode, DecState.ofCode_code, rfl, rfl, rfl, rfl⟩

end Sys2Proof.Machine
end

section
/-! PROOFS. The encoding statements about one edge: the input port, the response port and the debug port (30_encoding.md R68 to
R70, R74). -/

namespace Sys2Proof.Machine

/-! ## The pins at an edge -/

section Pins
variable {s : State} {p : PortIn} {ps : List PortIn}

theorem pinsOf_of_cons (h : s.inputs = p :: ps) : pinsOf s = p := by
  rw [pinsOf, h]
  rfl

theorem sampled_of_cons (h : s.inputs = p :: ps) : sampled s = { s with inputs := ps, now := p.now, resp := none } := by
  rw [sampled, pinsOf_of_cons h, h]
  rfl

/-- A command is accepted exactly where it is offered and `in_ready` shows 1 (30_encoding.md R68). -/
theorem accepts_iff : accepts s p = true ↔ p.inValid = true ∧ (outputs p.rst s).inReady = true := Bool.and_eq_true_iff

theorem accepts_of_offered (hv : p.inValid = true) (hp : s.pend = false) (hr : p.rst = false) : accepts s p = true := by
  rw [accepts, inReady, hv, hp, hr]
  rfl

theorem not_accepts_of_pend (h : s.pend = true) : accepts s p = false := by
  rw [accepts, inReady, h]
  exact Bool.and_false _

theorem not_handshake_of_not_ready (h : p.msgReady = false) : handshake s p = false := by
  rw [handshake, h, Bool.and_false, Bool.false_and]

end Pins

/-- Settles O37: with an event pending and no reader, the edge is a quiet one. -/
theorem pendingEventHoldsInput : Obligations.PendingEventHoldsInput := by
  intro s p ps hl hpend hin hfits hrst hready
  obtain rfl := pinsOf_of_cons hin
  rw [step_quiet hl hfits hrst (not_accepts_of_pend hpend) (not_handshake_of_not_ready hready), sampled_of_cons hin]

/-- Settles O35: an edge that accepts is the command's, and pins that do not fit are refused. -/
theorem stepRunsOfferedCommand : Obligations.StepRunsOfferedCommand := by
  intro s p ps hin
  obtain rfl := pinsOf_of_cons hin
  refine ⟨fun hfits hrst hvalid hpend => ?_, step_pins⟩
  rw [step_accept hfits (accepts_of_offered hvalid hpend hrst), sampled_of_cons hin]
  rfl

/-! ## A word supplied by the host (entry 12) -/

theorem pinsOf_withFetchWord (s : State) (n w : Nat) :
    pinsOf (s.withFetchWord n w) = PortIn.offer s.cfg.wT (w % 2 ^ n) s.now := rfl

theorem sampled_withFetchWord (s : State) (n w : Nat) :
    sampled (s.withFetchWord n w) = { s with pend := false, resp := none } := rfl

theorem offer_fits (c : Cfg) (w : Nat) {t : Nat} (ht : t < 2 ^ c.wTS) : (PortIn.offer c.wT w t).Fits c :=
  ⟨sField_lt c.wT w, dField_lt c.wT w, ht⟩

/-- The fields that the host drives for a word spell that word. -/
theorem offer_word {wT w : Nat} (t : Nat) (h : w < 2 ^ (2 * wT + 2)) : (PortIn.offer wT w t).word wT = w := wordOf_fields h

/-- Settles O36: the placed word is offered at the next edge, which accepts it. -/
theorem fetchedWordRunsNext : Obligations.FetchedWordRunsNext := by
  intro s w hw hnow
  have hpins := pinsOf_withFetchWord s (2 * s.cfg.wT + 2) w
  rw [Nat.mod_eq_of_lt hw] at hpins
  have hfits : (PortIn.offer s.cfg.wT w s.now).Fits s.cfg := offer_fits s.cfg w hnow
  rw [step_accept (by rwa [hpins]) (accepts_of_offered rfl rfl rfl), hpins, sampled_withFetchWord]
  exact congrArg (fun v => exec (decode s.cfg.wT v) _) (offer_word s.now hw)

/-! ## The response port (30_encoding.md R69) -/

theorem complete_resp (A : Acc) (s : State) : ∃ c, (complete A s).resp = some c := by
  rw [complete]
  split_ifs <;> exact ⟨_, rfl⟩

theorem pulseData_resp (t d : Nat) (b : Bool) (s : State) : ∃ c, (pulseData t d b s).resp = some c := by
  rw [pulseData]
  split_ifs <;> exact ⟨_, rfl⟩

theorem pulseChecksum_resp (t d : Nat) (b : Bool) (s : State) : ∃ c, (pulseChecksum t d b s).resp = some c := by
  rw [pulseChecksum]
  split_ifs
  · exact ⟨_, rfl⟩
  · exact complete_resp _ _

/-- Every command responds (00_scope.md R9). -/
theorem effect_resp (i : Instr) (s : State) : ∃ c, (effect i s).resp = some c := by
  cases i with
  | pulse t d =>
    exact pulse_elim (P := fun s' => ∃ c, s'.resp = some c) t d s ⟨_, rfl⟩ (fun _ => ⟨_, rfl⟩) ⟨_, rfl⟩
      (fun b _ => pulseData_resp t d b s) (fun _ _ => ⟨_, rfl⟩) (fun b _ => pulseChecksum_resp t d b s)
  | reset => exact ⟨_, rfl⟩
  | illegalOp => exact ⟨_, rfl⟩

/-- An edge accepted a command and answers it, or it accepted none and shows no response. -/
theorem step_resp_cases {s s' : State} (h : step s = .next s') :
    (accepts s (pinsOf s) = true ∧ exec (decode s.cfg.wT ((pinsOf s).word s.cfg.wT)) (sampled s) = .next s' ∧
      ∃ c, s'.resp = some c) ∨
    (accepts s (pinsOf s) = false ∧ s'.resp = none) := by
  obtain ⟨-, -, ⟨hrst, rfl⟩ | ⟨hacc, hready, rfl⟩ | ⟨hhand, -, rfl⟩ | ⟨-, hacc, -, -, rfl⟩⟩ := step_cases h
  · refine .inr ⟨?_, rfl⟩
    rw [accepts, inReady, hrst, Bool.not_true, Bool.and_false, Bool.and_false]
  · exact .inl ⟨hacc, exec_of_ready hready, effect_resp _ _⟩
  · exact .inr ⟨not_accepts_of_pend (handshake_pend hhand), rfl⟩
  · exact .inr ⟨hacc, rfl⟩

/-- Settles O41: the port shows a response exactly where the edge accepted a command, and it is that command's. -/
theorem responseForOneCycle : Obligations.ResponseForOneCycle := by
  intro s s' rst h
  rw [← accepts_iff]
  obtain ⟨hacc, hexec, c, hc⟩ | ⟨hacc, hnone⟩ := step_resp_cases h
  · have hvalid : (outputs rst s').resValid = true := by simp [outputs, hc]
    have hstatus : (outputs rst s').resStatus = some c.code := by simp [outputs, hc]
    exact ⟨iff_of_true hvalid hacc, fun _ => ⟨s', c, hexec, hc, hstatus⟩⟩
  · have hvalid : ¬ (outputs rst s').resValid = true := by simp [outputs, hnone]
    exact ⟨iff_of_false hvalid (by simp [hacc]), fun hv => absurd hv hvalid⟩

/-! ## What the ports show (30_encoding.md R68, R70, R74) -/

/-- Settles O44: each output is the state element it shows, and `st` is read back from its code. -/
theorem outputsShowState : Obligations.OutputsShowState := by
  intro s rst
  have hready : (outputs rst s).inReady = true ↔ s.pend = false ∧ rst = false := by simp [outputs, inReady]
  exact ⟨hready, rfl, fun hpend => if_pos hpend, DecState.ofCode_code s.st, rfl, rfl, rfl, rfl⟩

end Sys2Proof.Machine
end

section
/-! PROOFS. The encoding statements about the assembler: the pseudo-instructions' table, FRAME as its lines, and the refusals
(30_encoding.md R77 to R79). -/

namespace Sys2Proof.Machine

/-! ## The operands of pulses, all in range or refused (30_encoding.md R79) -/

/-- Every operand of the pulses is in `[0, 2^W_T - 1]`. -/
def PulsesFit (wT : Nat) (ps : List (Nat × Nat)) : Prop := ∀ p ∈ ps, p.1 < 2 ^ wT ∧ p.2 < 2 ^ wT

/-- The PULSE commands of pulses (30_encoding.md R78). -/
def pulseCommands (ps : List (Nat × Nat)) : List Instr := ps.map fun p => .pulse p.1 p.2

/-- The answer to a line that stands for the pulses `ps`, with the cursor `T` before it. -/
def expandPulses (wT : Nat) (T : Option Nat) (ps : List (Nat × Nat)) : Except LineError (List Instr × Option Nat) :=
  match pulseInstrs wT ps with
  | none    => .error .outOfRange
  | some is => .ok (is, cursorAfter T ps)

section Pulses
variable {wT : Nat} {T : Option Nat} {p : Nat × Nat} {ps : List (Nat × Nat)}

theorem pulsesFit_cons : PulsesFit wT (p :: ps) ↔ (p.1 < 2 ^ wT ∧ p.2 < 2 ^ wT) ∧ PulsesFit wT ps := List.forall_mem_cons

theorem pulsesFit_singleton : PulsesFit wT [p] ↔ p.1 < 2 ^ wT ∧ p.2 < 2 ^ wT := List.forall_mem_singleton

theorem pulseInstrs_of_fit (h : PulsesFit wT ps) : pulseInstrs wT ps = some (pulseCommands ps) := by
  induction ps with
  | nil => rfl
  | cons p ps ih =>
    obtain ⟨hp, hps⟩ := pulsesFit_cons.mp h
    rw [pulseInstrs, if_pos hp, ih hps]
    rfl

theorem pulseInstrs_of_not_fit (h : ¬ PulsesFit wT ps) : pulseInstrs wT ps = none := by
  induction ps with
  | nil => exact absurd (fun _ hp => absurd hp List.not_mem_nil) h
  | cons p ps ih =>
    rw [pulseInstrs]
    split_ifs with hp
    · rw [ih fun hps => h (pulsesFit_cons.mpr ⟨hp, hps⟩)]
      rfl
    · rfl

theorem expandPulses_of_fit (h : PulsesFit wT ps) : expandPulses wT T ps = .ok (pulseCommands ps, cursorAfter T ps) := by
  rw [expandPulses, pulseInstrs_of_fit h]

theorem expandPulses_of_not_fit (h : ¬ PulsesFit wT ps) : expandPulses wT T ps = .error .outOfRange := by
  rw [expandPulses, pulseInstrs_of_not_fit h]

theorem cursorAfter_singleton : cursorAfter T [p] = some (p.1 + p.2) := rfl

/-- The cursor after pulses moves with each of them (30_encoding.md R78). -/
theorem cursorAfter_cons : cursorAfter T (p :: ps) = cursorAfter (some (p.1 + p.2)) ps := by
  cases ps with
  | nil => rfl
  | cons q qs => rw [cursorAfter, cursorAfter, List.getLast?_cons_cons, List.getLast?_cons]

end Pulses

/-! ## The lines that expand to pulses -/

/-- The line stands for the pulses of `pulsesOf`, and has the cursor that it measures from, if it needs one. -/
def StandsForPulses (T : Option Nat) : Line → Prop
  | .blank | .reset | .op _ _ _ => False
  | l => l.needsCursor = true → T ≠ none

section Lines
variable {wT : Nat} {l : Line}

theorem standsForPulses_of_needsCursor {T : Nat} (h : l.needsCursor = true) : StandsForPulses (some T) l := by
  cases l with
  | blank | reset | op => cases h
  | _ => exact fun _ => Option.some_ne_none T

variable {T : Option Nat}

theorem expandLine_eq_expandPulses (h : StandsForPulses T l) :
    expandLine wT T l = expandPulses wT T (pulsesOf (T.getD 0) l) := by
  cases l with
  | blank | reset | op => exact h.elim
  | _ => exact if_neg (t := Except.error LineError.noCursor) (not_and.mpr h)

variable {t d : Nat}

/-- A line of one pulse, in range. -/
theorem expandLine_single (h : StandsForPulses T l) (hl : pulsesOf (T.getD 0) l = [(t, d)]) (ht : t < 2 ^ wT)
    (hd : d < 2 ^ wT) : expandLine wT T l = .ok ([.pulse t d], some (t + d)) := by
  rw [expandLine_eq_expandPulses h, hl, expandPulses_of_fit (pulsesFit_singleton.mpr ⟨ht, hd⟩)]
  rfl

/-- A line of one pulse, out of range. -/
theorem expandLine_single_refused (h : StandsForPulses T l) (hl : pulsesOf (T.getD 0) l = [(t, d)])
    (hbad : 2 ^ wT ≤ t ∨ 2 ^ wT ≤ d) : expandLine wT T l = .error .outOfRange := by
  have hnot : ¬ PulsesFit wT [(t, d)] := by
    rw [pulsesFit_singleton]
    omega
  rw [expandLine_eq_expandPulses h, hl, expandPulses_of_not_fit hnot]

end Lines

/-- Settles O55: each line is one pulse of the table. -/
theorem pseudoInstructionTable : Obligations.PseudoInstructionTable := by
  intro wT T x w
  refine ⟨fun T' => ?_, ?_, ?_, ?_, ?_, ?_, ?_⟩
  · exact expandLine_single (l := .start x) nofun rfl
  · exact expandLine_single (standsForPulses_of_needsCursor (l := .bit0) rfl) rfl
  · exact expandLine_single (standsForPulses_of_needsCursor (l := .bit1) rfl) rfl
  · exact expandLine_single (standsForPulses_of_needsCursor (l := .dbit x) rfl) rfl
  · exact expandLine_single (standsForPulses_of_needsCursor (l := .stop0) rfl) rfl
  · exact expandLine_single (standsForPulses_of_needsCursor (l := .stop1) rfl) rfl
  · exact expandLine_single (standsForPulses_of_needsCursor (l := .noise x w) rfl) rfl

/-! ## FRAME and its lines (30_encoding.md R78) -/

/-- The duration of the pulse of buffer index `i`: that of the stop pulse at index 54 (30_encoding.md R78). -/
def bitWidth (i : Nat) : Nat := if i = 54 then 500 else 100

/-- The line of the bit `b` at buffer index `i`. -/
def bitLine (i : Nat) (b : Bool) : Line :=
  if i = 54 then (if b then .stop1 else .stop0) else (if b then .bit1 else .bit0)

/-- The lines of a frame's bits from buffer index `i` on. -/
def bitLines (i : Nat) (bits : List Bool) : List Line := bits.mapIdx fun j b => bitLine (i + j) b

theorem bitLine_needsCursor (i : Nat) (b : Bool) : (bitLine i b).needsCursor = true := by
  cases b <;> unfold bitLine <;> split <;> rfl

theorem pulsesOf_bitLine (T i : Nat) (b : Bool) : pulsesOf T (bitLine i b) = [bitPulse T b (bitWidth i)] := by
  cases b <;> unfold bitLine bitWidth <;> split <;> rfl

theorem bitLines_cons (i : Nat) (b : Bool) (bs : List Bool) :
    bitLines i (b :: bs) = bitLine i b :: bitLines (i + 1) bs := by
  rw [bitLines, bitLines, List.mapIdx_cons]
  simp only [Nat.add_zero, Nat.add_assoc, Nat.add_comm 1]

theorem frameLines_eq (t : Nat) (bits : List Bool) : frameLines t bits = .start t :: bitLines 0 bits := by
  simp only [frameLines, bitLines, bitLine, Nat.zero_add]

theorem framePulses_cons (T i : Nat) (b : Bool) (bs : List Bool) :
    framePulses T i (b :: bs) =
      bitPulse T b (bitWidth i) ::
        framePulses ((bitPulse T b (bitWidth i)).1 + (bitPulse T b (bitWidth i)).2) (i + 1) bs := rfl

/-- Where a line stands for one pulse and the lines after it for `ps`, measured from its end, they all stand for both. -/
theorem expandAll_cons_pulse {wT : Nat} {T : Option Nat} {l : Line} {ls : List Line} {p : Nat × Nat}
    {ps : List (Nat × Nat)} (hl : expandLine wT T l = expandPulses wT T [p])
    (hls : expandAll wT (some (p.1 + p.2)) ls = expandPulses wT (some (p.1 + p.2)) ps) :
    expandAll wT T (l :: ls) = expandPulses wT T (p :: ps) := by
  rw [expandAll, hl]
  by_cases hp : PulsesFit wT [p]
  · rw [expandPulses_of_fit hp, cursorAfter_singleton]
    by_cases hps : PulsesFit wT ps
    · have hboth : PulsesFit wT (p :: ps) := pulsesFit_cons.mpr ⟨pulsesFit_singleton.mp hp, hps⟩
      simp only [hls, expandPulses_of_fit hps, expandPulses_of_fit hboth, cursorAfter_cons]
      rfl
    · have hboth : ¬ PulsesFit wT (p :: ps) := fun h => hps (pulsesFit_cons.mp h).2
      simp only [hls, expandPulses_of_not_fit hps, expandPulses_of_not_fit hboth]
  · have hboth : ¬ PulsesFit wT (p :: ps) := fun h => hp (pulsesFit_singleton.mpr (pulsesFit_cons.mp h).1)
    rw [expandPulses_of_not_fit hp, expandPulses_of_not_fit hboth]

theorem expandAll_bitLines (wT T i : Nat) (bits : List Bool) :
    expandAll wT (some T) (bitLines i bits) = expandPulses wT (some T) (framePulses T i bits) := by
  induction bits generalizing T i with
  | nil => rfl
  | cons b bs ih =>
    rw [bitLines_cons, framePulses_cons]
    refine expandAll_cons_pulse ?_ (ih _ _)
    rw [expandLine_eq_expandPulses (standsForPulses_of_needsCursor (bitLine_needsCursor i b)), Option.getD_some,
      pulsesOf_bitLine]

theorem expandLine_frame (wT : Nat) (T : Option Nat) (t : Nat) (bits : List Bool) :
    expandLine wT T (.frame t bits) = expandPulses wT T ((t, 1000) :: framePulses (t + 1000) 0 bits) :=
  expandLine_eq_expandPulses (l := .frame t bits) nofun

/-- Settles O56, by induction on the bits: FRAME and its lines stand for the same pulses. -/
theorem frameExpandsAsItsLines : Obligations.FrameExpandsAsItsLines := by
  intro wT T t bits
  rw [expandLine_frame, frameLines_eq]
  exact (expandAll_cons_pulse (expandLine_eq_expandPulses (l := .start t) nofun) (expandAll_bitLines wT (t + 1000) 0 bits)).symm

/-! ## Refusals (30_encoding.md R79) -/

/-- A `.op` line with an operand out of range. -/
theorem expandLine_op_refused {wT : Nat} (T : Option Nat) (n : Nat) {s d : Nat} (hbad : 2 ^ wT ≤ s ∨ 2 ^ wT ≤ d) :
    expandLine wT T (.op n s d) = .error .outOfRange := by
  rw [expandLine, if_neg (by omega)]

/-- A FRAME line with a pulse out of range; its pulses do not depend on the cursor. -/
theorem expandLine_frame_refused {wT t : Nat} {bits : List Bool} (T : Option Nat)
    (hbad : ∃ p ∈ pulsesOf 0 (.frame t bits), 2 ^ wT ≤ p.1 ∨ 2 ^ wT ≤ p.2) :
    expandLine wT T (.frame t bits) = .error .outOfRange := by
  rw [expandLine_frame]
  refine expandPulses_of_not_fit fun hfit => ?_
  obtain ⟨p, hp, hbad⟩ := hbad
  obtain ⟨h1, h2⟩ := hfit p hp
  omega

/-- The line of text is refused with the reason `e`, the cursor before it being `T`. -/
def LineRefused (wT : Nat) (T : Option Nat) (text : List Char) (e : LineError) : Prop :=
  parseLine text = none ∧ e = .unparsable ∨ ∃ l, parseLine text = some l ∧ expandLine wT T l = .error e

theorem assembleFrom_cons_refused {wT : Nat} {T : Option Nat} {text : List Char} {e : LineError}
    (h : LineRefused wT T text e) (n : Nat) (post : List (List Char)) :
    assembleFrom wT n T (text :: post) = .error ⟨n, e⟩ := by
  obtain ⟨hparse, rfl⟩ | ⟨l, hparse, hexpand⟩ := h
  · simp only [assembleFrom, hparse]
  · simp only [assembleFrom, hparse, hexpand]

/-- After a line that parses and expands, a refusal of the rest is the refusal of all. -/
theorem assembleFrom_cons_of_refused {wT n : Nat} {T T' : Option Nat} {text : List Char} {texts : List (List Char)}
    {l : Line} {is : List Instr} {e : AsmError} (hparse : parseLine text = some l)
    (hexpand : expandLine wT T l = .ok (is, T')) (hrest : assembleFrom wT (n + 1) T' texts = .error e) :
    assembleFrom wT n T (text :: texts) = .error e := by
  simp only [assembleFrom, hparse, hexpand, hrest]

/-- Lines that all expand do so one by one, each from the cursor that the ones before it leave. -/
theorem expandAll_cons_ok {wT : Nat} {T T'' : Option Nat} {l : Line} {ls : List Line} {is : List Instr}
    (h : expandAll wT T (l :: ls) = .ok (is, T'')) :
    ∃ is₁ is₂ T', expandLine wT T l = .ok (is₁, T') ∧ expandAll wT T' ls = .ok (is₂, T'') := by
  rw [expandAll] at h
  split at h
  · cases h
  · next is₁ T' hl =>
    split at h
    · cases h
    · next is₂ T₂ hls =>
      cases h
      exact ⟨is₁, is₂, T', hl, hls⟩

/-- After lines that all parse and expand, the refusal of the next line is the whole answer, under that line's number. -/
theorem assembleFrom_append_refused {wT : Nat} {T : Option Nat} {text : List Char} {e : LineError}
    (href : LineRefused wT T text e) (post : List (List Char)) :
    ∀ (pre : List (List Char)) (ls : List Line) (c : Option Nat) (is : List Instr) (n : Nat),
      pre.map parseLine = ls.map some → expandAll wT c ls = .ok (is, T) →
      assembleFrom wT n c (pre ++ text :: post) = .error ⟨n + pre.length, e⟩ := by
  intro pre
  induction pre with
  | nil =>
    intro ls c is n hparse hexpand
    obtain rfl : ls = [] := List.map_eq_nil_iff.mp hparse.symm
    cases hexpand
    exact assembleFrom_cons_refused href n post
  | cons line pre ih =>
    intro ls c is n hparse hexpand
    obtain ⟨l, ls, rfl, hl, hls⟩ := List.map_eq_cons_iff.mp hparse.symm
    obtain ⟨is₁, is₂, T', hline, hrest⟩ := expandAll_cons_ok hexpand
    have hnum : n + (line :: pre).length = n + 1 + pre.length := by
      rw [List.length_cons]
      omega
    rw [hnum]
    exact assembleFrom_cons_of_refused hl.symm hline (ih ls T' is₂ (n + 1) hls.symm hrest)

/-- Settles O57: a line with a pulse out of range is refused, and by induction on the lines before it, with its number. -/
theorem assemblerRefusesByLine : Obligations.AssemblerRefusesByLine := by
  intro wT
  refine ⟨fun c n s d hbad => ⟨?_, expandLine_op_refused c n hbad⟩, fun c t => ?_, fun T x w => ⟨?_, ?_⟩,
    fun T => ⟨?_, ?_, ?_, ?_⟩, fun c t bits => expandLine_frame_refused c, ?_⟩
  · exact expandLine_single_refused (l := .pulse s d) nofun rfl hbad
  · exact expandLine_single_refused (l := .start t) nofun rfl
  · exact expandLine_single_refused (standsForPulses_of_needsCursor (l := .dbit x) rfl) rfl
  · exact expandLine_single_refused (standsForPulses_of_needsCursor (l := .noise x w) rfl) rfl
  · exact expandLine_single_refused (standsForPulses_of_needsCursor (l := .bit1) rfl) rfl
  · exact expandLine_single_refused (standsForPulses_of_needsCursor (l := .stop1) rfl) rfl
  · exact expandLine_single_refused (standsForPulses_of_needsCursor (l := .bit0) rfl) rfl
  · exact expandLine_single_refused (standsForPulses_of_needsCursor (l := .stop0) rfl) rfl
  · intro c T pre post text ls is hparse hexpand e href
    have hfrom := fun n => assembleFrom_append_refused href post pre ls c is n hparse hexpand
    refine ⟨hfrom, ?_⟩
    rintro rfl
    rw [assemble, hfrom, Nat.add_comm]

end Sys2Proof.Machine
end

section
/-! PROOFS. FRAME is decoded: the pulses of a bit string, run from AwaitingStart, complete one frame that holds exactly its bits
(30_encoding.md R78; 42_frame_fsm.md R120; 43_packet_decoder.md R126). -/

namespace Sys2Proof.Machine

/-! ## The accumulator after a bit string (42_frame_fsm.md R113) -/

/-- The bits appended stand in the accumulator in reverse: the last one lowest. -/
theorem foldl_appendAcc_getLsbD (acc : Acc) (bits : List Bool) {i : Nat} (hi : i < bits.length) (hlen : bits.length ≤ 59) :
    bits[bits.length - 1 - i]? = some ((bits.foldl appendAcc acc).getLsbD i) := by
  induction bits using List.reverseRecOn generalizing i with
  | nil => cases hi
  | append_singleton bs b ih =>
    rw [List.length_append, List.length_singleton] at hi hlen
    rw [List.foldl_append, List.foldl_cons, List.foldl_nil, List.length_append, List.length_singleton]
    cases i with
    | zero => rw [appendAcc_getLsbD_zero, Nat.sub_zero, Nat.add_sub_cancel, List.getElem?_concat_length]
    | succ j =>
      have hj : j < bs.length := by omega
      have hindex : bs.length + 1 - 1 - (j + 1) = bs.length - 1 - j := by omega
      rw [appendAcc_getLsbD_succ _ _ _ (by omega), ← ih hj (by omega), hindex, List.getElem?_append_left (by omega)]

/-- The accumulator that has taken the 59 bits of a complete buffer is that buffer (20_memory.md R48). -/
theorem foldl_appendAcc_eq {bits : List Bool} {A : Acc} (hlen : bits.length = 59)
    (hbits : ∀ i, i < 59 → bits[i]? = some (bufBit A i)) : bits.foldl appendAcc 0 = A := by
  apply BitVec.eq_of_getLsbD_eq
  intro i hi
  have hfold := foldl_appendAcc_getLsbD 0 bits (i := i) (by omega) hlen.le
  have hindex : 58 - (58 - i) = i := by omega
  rw [hlen, hbits _ (by omega), bufBit, hindex] at hfold
  exact (Option.some.inj hfold).symm

/-! ## The pulse of one bit, under the windows of WSD-CORE -/

/-- The windows and the validator mode of WSD-CORE, at any widths. -/
def InstanceWindows (c : Cfg) : Prop := c = { wsdCore with wT := c.wT, wTS := c.wTS }

section Windows
variable {c : Cfg}

/-- The classifier does not read the widths. -/
theorem cat_of_instanceWindows (h : InstanceWindows c) (d : Nat) : cat c d = cat wsdCore d := by
  rw [h]
  rfl

/-- The encoder does not read the widths. -/
theorem enc_of_instanceWindows (h : InstanceWindows c) (δ : Int) : enc c δ = enc wsdCore δ := by
  rw [h]
  rfl

theorem csCheck_of_instanceWindows (h : InstanceWindows c) (A : Acc) : csCheck c.csMode A = true := by
  rw [h]
  rfl

theorem ok_start (h : InstanceWindows c) : ok c .awaitingStart 1000 := by
  rw [ok, cat_of_instanceWindows h]
  decide

/-- In each state that takes a bit, the duration of that bit's pulse is accepted: the stop pulse comes at index 54, where INV3
has the machine await it (10_state.md R33 to R35). -/
theorem ok_bitWidth {s : State} (h : InstanceWindows s.cfg) (hinv : s.Inv) (hst : s.st ≠ .awaitingStart) :
    ok s.cfg s.st (bitWidth s.cnt.toNat) := by
  rw [ok, cat_of_instanceWindows h, bitWidth]
  cases hs : s.st with
  | awaitingStart => exact absurd hs hst
  | collectingBits =>
    obtain ⟨hcnt, -⟩ := (State.inv_iff_of_collectingBits hs).mp hinv
    rw [if_neg (by omega)]
    decide
  | awaitingStop =>
    obtain ⟨hcnt, -⟩ := (State.inv_iff_of_awaitingStop hs).mp hinv
    rw [if_pos hcnt]
    decide
  | collectingChecksum =>
    obtain ⟨⟨hcnt, -⟩, -⟩ := (State.inv_iff_of_collectingChecksum hs).mp hinv
    rw [if_neg (by omega)]
    decide

/-- The gap before a bit's pulse encodes that bit (41_bit_encoder.md R98). -/
theorem enc_bitPulse (h : InstanceWindows c) (T w : Nat) (b : Bool) : enc c (delta (bitPulse T b w).1 T) = .bit b := by
  have hdelta : delta (bitPulse T b w).1 T = if b then 120 else 270 := by
    cases b <;> simp [delta, operand, bitPulse]
  rw [hdelta, enc_of_instanceWindows h]
  cases b <;> decide

end Windows

section BitPulse
variable {s : State} {t d : Nat} {b : Bool}

/-- A pulse that carries a bit and does not complete the buffer appends it, and the frame goes on (42_frame_fsm.md R110 to
R112). -/
theorem pulse_appends (hok : ok s.cfg s.st d) (henc : enc s.cfg (delta t s.ref) = .bit b) (hst : s.st ≠ .awaitingStart)
    (hcnt : s.cnt.toNat < 58) :
    ∃ v, v ≠ .awaitingStart ∧ pulse t d s = (((s.append b).setRef t d).setSt v).respond .accepted := by
  cases hs : s.st with
  | awaitingStart => exact absurd hs hst
  | collectingBits =>
    rw [pulse_data hok hs henc, pulseData]
    split_ifs
    · exact ⟨.awaitingStop, nofun, rfl⟩
    · exact ⟨s.st, hst, rfl⟩
  | awaitingStop =>
    rw [pulse_stop hok hs henc]
    exact ⟨.collectingChecksum, nofun, rfl⟩
  | collectingChecksum =>
    have hlt : (s.cnt + 1).toNat < 59 := by
      rw [cnt_succ_toNat hcnt.le]
      omega
    rw [pulse_checksum hok hs henc, pulseChecksum]
    exact ⟨s.st, hst, if_pos hlt⟩

/-- The state after a complete buffer `A` was decoded: the event waits, and the frame's last pulse ended at `T`
(43_packet_decoder.md R126). -/
def frameDecoded (A : Acc) (T : Nat) (s : State) : State :=
  { s with st := .awaitingStart, cnt := 0, acc := 0, ref := T, mq := decodeEvent A s.now, pend := true,
           resp := some .completed }

/-- A pulse that carries the 59th bit completes the buffer, and where the check passes the frame is decoded (42_frame_fsm.md
R112; 43_packet_decoder.md R126). -/
theorem pulse_completes (hok : ok s.cfg s.st d) (henc : enc s.cfg (delta t s.ref) = .bit b)
    (hs : s.st = .collectingChecksum) (hcnt : s.cnt.toNat = 58)
    (hcheck : csCheck s.cfg.csMode (appendAcc s.acc b) = true) :
    pulse t d s = frameDecoded (appendAcc s.acc b) (t + d) s := by
  have hge : ¬ (s.cnt + 1).toNat < 59 := by
    rw [cnt_succ_toNat hcnt.le]
    omega
  rw [pulse_checksum hok hs henc, pulseChecksum]
  exact (if_neg hge).trans (complete_pass hcheck)

end BitPulse

/-- Only CollectingChecksum holds 58 bits (10_state.md R32 to R35). -/
theorem st_of_cnt_58 {s : State} (hinv : s.Inv) (hcnt : s.cnt.toNat = 58) : s.st = .collectingChecksum := by
  obtain ⟨h1, h2, h3, -⟩ := hinv
  cases hs : s.st with
  | awaitingStart =>
    rw [(h1 hs).1] at hcnt
    cases hcnt
  | collectingBits => exact absurd (h2 hs) (by omega)
  | awaitingStop => exact absurd (h3 hs) (by omega)
  | collectingChecksum => rfl

/-! ## Runs of commands -/

theorem execAll_cons {s : State} {i : Instr} (h : s.ReadyFor i) (is : List Instr) :
    execAll (i :: is) s = execAll is (effect i s) := by
  rw [execAll, exec_of_ready h]

/-- A command that raises no event leaves the machine ready for the next one. -/
theorem effect_ready {s : State} {i : Instr} (h : s.ReadyFor i) (hpend : (effect i s).pend = false) : (effect i s).Ready := by
  have hfits := effect_fits h
  obtain ⟨⟨⟨hwf, -, hinv⟩, -⟩, -⟩ := h
  obtain ⟨hcfg, -⟩ := effect_samePins i s
  exact ⟨⟨by rwa [hcfg], hfits, effect_inv i hinv⟩, hpend⟩

theorem length_framePulses (T i : Nat) (bits : List Bool) : (framePulses T i bits).length = bits.length := by
  induction bits generalizing T i with
  | nil => rfl
  | cons b bs ih => rw [framePulses_cons, List.length_cons, List.length_cons, ih]

/-- In a frame that has `i` of its bits, the pulses of the bits that it lacks complete it: one bit is appended at a time, and the
assembler's cursor is the machine's reference. -/
theorem execAll_framePulses {T : Nat} (bits : List Bool) :
    ∀ (s : State) (i : Nat), s.Ready → InstanceWindows s.cfg → s.st ≠ .awaitingStart → s.cnt.toNat = i →
      i + bits.length = 59 → PulsesFit s.cfg.wT (framePulses s.ref i bits) →
      cursorAfter (some s.ref) (framePulses s.ref i bits) = some T →
      execAll (pulseCommands (framePulses s.ref i bits)) s = .next (frameDecoded (bits.foldl appendAcc s.acc) T s) := by
  induction bits with
  | nil =>
    intro s i ⟨⟨_, _, hinv⟩, _⟩ _ _ hcnt hlen
    have hle := State.Inv.cnt_le hinv
    rw [List.length_nil] at hlen
    omega
  | cons b bs ih =>
    intro s i hready hw hst hcnt hlen hfit hT
    have ⟨⟨_, _, hinv⟩, hpend⟩ := hready
    have hle := State.Inv.cnt_le hinv
    have hok : ok s.cfg s.st (bitPulse s.ref b (bitWidth i)).2 := hcnt ▸ ok_bitWidth hw hinv hst
    have henc := enc_bitPulse hw s.ref (bitWidth i) b
    rw [framePulses_cons] at hfit hT ⊢
    rw [cursorAfter_cons] at hT
    obtain ⟨hpfit, hfit⟩ := pulsesFit_cons.mp hfit
    have hfor : s.ReadyFor (.pulse (bitPulse s.ref b (bitWidth i)).1 (bitPulse s.ref b (bitWidth i)).2) := ⟨hready, hpfit⟩
    rw [pulseCommands, List.map_cons, execAll_cons hfor, List.foldl_cons]
    rw [List.length_cons] at hlen
    obtain h58 | hlt : s.cnt.toNat = 58 ∨ s.cnt.toNat < 58 := by omega
    · obtain rfl : bs = [] := List.length_eq_zero_iff.mp (by omega)
      cases hT
      exact congrArg _ (pulse_completes hok henc (st_of_cnt_58 hinv h58) h58 (csCheck_of_instanceWindows hw _))
    · obtain ⟨v, hv, he⟩ := pulse_appends hok henc hst hlt
      have hready' := effect_ready hfor ((congrArg State.pend he).trans hpend)
      rw [effect, he] at hready' ⊢
      exact ih _ (i + 1) hready' hw hv ((cnt_succ_toNat hle).trans (by rw [hcnt])) (by omega) hfit hT

/-- From AwaitingStart, a start pulse and the pulses of 59 bits after it are one complete frame (42_frame_fsm.md R120). -/
theorem execAll_startPulse_framePulses {s : State} {t T : Nat} {bits : List Bool} (hready : s.Ready)
    (hw : InstanceWindows s.cfg) (hst : s.st = .awaitingStart) (hlen : bits.length = 59)
    (hfit : PulsesFit s.cfg.wT ((t, 1000) :: framePulses (t + 1000) 0 bits))
    (hT : cursorAfter none ((t, 1000) :: framePulses (t + 1000) 0 bits) = some T) :
    execAll (pulseCommands ((t, 1000) :: framePulses (t + 1000) 0 bits)) s =
      .next (frameDecoded (bits.foldl appendAcc 0) T s) := by
  rw [cursorAfter_cons] at hT
  obtain ⟨hstart, hfit⟩ := pulsesFit_cons.mp hfit
  have ⟨⟨_, _, hinv⟩, hpend⟩ := hready
  obtain ⟨hcnt, hacc⟩ := (State.inv_iff_of_awaitingStart hst).mp hinv
  have hfor : s.ReadyFor (.pulse t 1000) := ⟨hready, hstart⟩
  have he : effect (.pulse t 1000) s = pulseStart t 1000 s := pulse_start (hst ▸ ok_start hw) hst
  have hopen := effect_ready hfor ((congrArg State.pend he).trans hpend)
  rw [he] at hopen
  rw [pulseCommands, List.map_cons, execAll_cons hfor, he, ← hacc]
  exact execAll_framePulses bits (pulseStart t 1000 s) 0 hopen hw nofun (congrArg BitVec.toNat hcnt) (by omega) hfit hT

/-- The buffer is as empty after a frame as before it. -/
theorem frameDecoded_of_awaitingStart {s : State} (hst : s.st = .awaitingStart) (hinv : s.Inv) (A : Acc) (T : Nat) :
    frameDecoded A T s = { s with ref := T, mq := decodeEvent A s.now, pend := true, resp := some .completed } := by
  obtain ⟨hcnt, hacc⟩ := (State.inv_iff_of_awaitingStart hst).mp hinv
  rw [frameDecoded, ← hst, ← hcnt, ← hacc]

/-- Settles O54: FRAME expands to a start pulse and its bits' pulses, which run to the decode of exactly those bits. -/
theorem frameStringIsDecoded : Obligations.FrameStringIsDecoded := by
  intro s t T bits is A hready hw hst hlen hexpand hbits
  rw [expandLine_frame] at hexpand
  by_cases hfit : PulsesFit s.cfg.wT ((t, 1000) :: framePulses (t + 1000) 0 bits)
  · rw [expandPulses_of_fit hfit] at hexpand
    obtain ⟨rfl, hT⟩ := Prod.mk.inj (Except.ok.inj hexpand)
    constructor
    · rw [pulseCommands, List.length_map, List.length_cons, length_framePulses, hlen]
    · rw [execAll_startPulse_framePulses hready hw hst hlen hfit hT, foldl_appendAcc_eq hlen hbits,
        frameDecoded_of_awaitingStart hst hready.1.2.2]
  · rw [expandPulses_of_not_fit hfit] at hexpand
    cases hexpand

end Sys2Proof.Machine
end

section
/-! PROOFS. The classifier statements: the comparators exclude each other, acceptance is window membership, and the category of
every duration under the windows of WSD-CORE (40_pulse_classifier.md R87, R88, R91, R93). -/

namespace Sys2Proof.Machine

section Classifier
variable (d : Nat)

/-- INVALID is what no comparator takes (40_pulse_classifier.md R88); unlike `cat_eq_stop` and `cat_eq_data`, this needs no
disjoint windows. -/
theorem cat_eq_invalid {c : Cfg} : cat c d = .invalid ↔ ¬ isStart c d ∧ ¬ isStop c d ∧ ¬ isData c d := by
  constructor
  · intro e
    unfold cat at e
    split_ifs at e with hstart hstop hdata
    exact ⟨hstart, hstop, hdata⟩
  · rintro ⟨hstart, hstop, hdata⟩
    rw [cat, if_neg hstart, if_neg hstop, if_neg hdata]

/-! ## The comparators under the windows of WSD-CORE (40_pulse_classifier.md R87) -/

/-- Between bounds that are not negative, the integer comparison is the one of natural numbers. -/
theorem inW_operand_iff (lo hi : Nat) : inW ⟨lo, hi⟩ (operand d) ↔ lo ≤ d ∧ d ≤ hi :=
  and_congr Int.ofNat_le Int.ofNat_le

theorem isStart_wsdCore : isStart wsdCore d ↔ 700 ≤ d ∧ d ≤ 1200 := inW_operand_iff d 700 1200

theorem isStop_wsdCore : isStop wsdCore d ↔ 400 ≤ d ∧ d ≤ 500 := inW_operand_iff d 400 500

theorem isData_wsdCore : isData wsdCore d ↔ 65 ≤ d ∧ d ≤ 150 := inW_operand_iff d 65 150

end Classifier

/-- Settles O8: `ok_iff_inW` for every configuration, and at WSD-CORE the window of each state is that of its comparator. -/
theorem acceptanceIsWindowMembership : Obligations.AcceptanceIsWindowMembership := by
  refine ⟨fun c st d hwf => ok_iff_inW d hwf st, fun d => ?_⟩
  have hok := ok_iff_inW d wsdCore_wf
  exact ⟨(hok .awaitingStart).trans (isStart_wsdCore d), (hok .collectingBits).trans (isData_wsdCore d),
    (hok .awaitingStop).trans (isStop_wsdCore d), (hok .collectingChecksum).trans (isData_wsdCore d)⟩

/-- Settles O10: each category is its comparator, and INVALID the gaps that the three windows leave. -/
theorem categoryOfEveryDuration : Obligations.CategoryOfEveryDuration := by
  intro d
  refine ⟨(cat_eq_start d).trans (isStart_wsdCore d), (cat_eq_stop d wsdCore_wf).trans (isStop_wsdCore d),
    (cat_eq_data d wsdCore_wf).trans (isData_wsdCore d), ?_⟩
  rw [cat_eq_invalid, isStart_wsdCore, isStop_wsdCore, isData_wsdCore]
  omega

/-- Settles O9: the windows are pairwise disjoint by W2 (00_scope.md R6). -/
theorem atMostOneComparator : Obligations.AtMostOneComparator := by
  intro c d hwf
  refine ⟨?_, ?_, ?_⟩
  · rintro ⟨hstart, hstop⟩
    exact not_isStart_of_isStop d hwf hstop hstart
  · rintro ⟨hstart, hdata⟩
    exact not_isStart_of_isData d hwf hdata hstart
  · rintro ⟨hstop, hdata⟩
    exact not_isStop_of_isData d hwf hdata hstop

end Sys2Proof.Machine
end

section
/-! PROOFS. The encoder statements: the bit of every delta, the range of the delta and its register, and the pulse that comes
too early or too late for any bit (41_bit_encoder.md R97, R98, R100, R101). -/

namespace Sys2Proof.Machine

/-! ## The windows of WSD-CORE (41_bit_encoder.md R98) -/

section Windows
variable (δ : Int)

theorem isZero_wsdCore : isZero wsdCore δ ↔ 200 ≤ δ ∧ δ ≤ 340 := Iff.rfl

theorem isOne_wsdCore : isOne wsdCore δ ↔ 60 ≤ δ ∧ δ ≤ 190 := Iff.rfl

/-- The deltas that no bit takes are those below, between and above the two windows. -/
theorem enc_wsdCore_eq_invalid : enc wsdCore δ = .invalid ↔ δ < 60 ∨ (191 ≤ δ ∧ δ ≤ 199) ∨ 340 < δ := by
  rw [enc_eq_invalid, isZero_wsdCore, isOne_wsdCore]
  omega

/-- The encoder reads nothing of the configuration but its two windows. -/
theorem enc_congr {c c' : Cfg} (hzero : c.zero = c'.zero) (hone : c.one = c'.one) : enc c δ = enc c' δ := by
  simp only [enc, isZero, isOne, hzero, hone]

end Windows

/-- Settles O11: each result is its comparator, for every configuration and at the windows of WSD-CORE. -/
theorem bitOfEveryDelta : Obligations.BitOfEveryDelta := by
  refine ⟨fun c δ hwf => ⟨enc_eq_zero δ, enc_eq_one δ hwf, enc_eq_invalid δ⟩, fun δ => ?_⟩
  exact ⟨(enc_eq_zero δ).trans (isZero_wsdCore δ), (enc_eq_one δ wsdCore_wf).trans (isOne_wsdCore δ),
    enc_wsdCore_eq_invalid δ⟩

/-! ## The delta and its register (41_bit_encoder.md R96, R97) -/

section Delta
variable {wT t r : Nat}

theorem delta_eq_sub (t r : Nat) : delta t r = (t : Int) - r := rfl

theorem delta_range (ht : t < 2 ^ wT) (hr : r ≤ 2 ^ (wT + 1) - 2) :
    -(2 ^ (wT + 1) - 2) ≤ delta t r ∧ delta t r ≤ 2 ^ wT - 1 := by
  have hpos : 0 < 2 ^ wT := Nat.two_pow_pos wT
  have hr' : r + 2 ≤ 2 ^ (wT + 1) := by omega
  rw [delta_eq_sub]
  zify at ht hr'
  omega

/-- The register holds the delta modulo `2 ^ (wT + 2)`, whatever the operands are. -/
theorem deltaBits_eq_ofInt (wT t r : Nat) : deltaBits wT t r = BitVec.ofInt (wT + 2) (delta t r) := by
  rw [delta_eq_sub, Int.sub_eq_add_neg, BitVec.ofInt_add, BitVec.ofInt_neg, BitVec.ofInt_natCast, BitVec.ofInt_natCast,
    ← BitVec.sub_eq_add_neg, deltaBits]

theorem deltaBits_toInt (ht : t < 2 ^ wT) (hr : r ≤ 2 ^ (wT + 1) - 2) : (deltaBits wT t r).toInt = delta t r := by
  obtain ⟨hlo, hhi⟩ := delta_range ht hr
  have hpow : (2 : Int) ^ wT < 2 ^ (wT + 1) := pow_lt_pow_right₀ one_lt_two wT.lt_succ_self
  have hmin : -2 ^ (wT + 1) ≤ delta t r := by omega
  have hmax : delta t r < 2 ^ (wT + 1) := by omega
  rw [deltaBits_eq_ofInt]
  exact BitVec.toInt_ofInt_eq_self (wT + 1).succ_pos hmin hmax

end Delta

/-- Settles O12: the register holds the delta modulo `2 ^ (wT + 2)`, and the range of the delta is within its range. -/
theorem deltaFitsItsRegister : Obligations.DeltaFitsItsRegister := by
  intro wT t r ht hr
  obtain ⟨hlo, hhi⟩ := delta_range ht hr
  exact ⟨delta_eq_sub t r, hlo, hhi, deltaBits_toInt ht hr⟩

/-! ## A delta in neither window ends the frame (41_bit_encoder.md R100; 42_frame_fsm.md R115) -/

/-- What a ready state that extracts a bit answers where the encoder finds none. -/
theorem exec_pulse_invalid {s : State} {t d : Nat} (hready : s.ReadyFor (.pulse t d)) (hok : ok s.cfg s.st d)
    (hst : s.st ≠ .awaitingStart) (henc : enc s.cfg (delta t s.ref) = .invalid) :
    exec (.pulse t d) s = .next (invalidInterval t d s) :=
  (exec_of_ready hready).trans (congrArg _ (pulse_invalid hok hst henc))

/-- Settles O23: before 60 and after 340 the delta is below or above both windows. -/
theorem tooEarlyOrTooLatePulseEndsFrame : Obligations.TooEarlyOrTooLatePulseEndsFrame := by
  intro s t d hready hzero hone hok hst htime
  have henc : enc s.cfg (delta t s.ref) = .invalid := by
    rw [enc_congr _ hzero hone, enc_wsdCore_eq_invalid, delta_eq_sub]
    omega
  exact exec_pulse_invalid hready hok hst henc

end Sys2Proof.Machine
end

section
/-! PROOFS. The frame state machine statements: the append, the guard of a command, the rows of PULSE, RESET and the reserved op
codes, and the 60 pulses of a frame (42_frame_fsm.md R106 to R120). -/

namespace Sys2Proof.Machine

/-! ## The append (42_frame_fsm.md R113) -/

/-- The buffer that took one more bit holds it at its end, the bits before it one accumulator position higher. -/
theorem bufferOf_appendAcc (acc : Acc) {n : Nat} (b : Bool) (hn : n ≤ 58) :
    bufferOf (appendAcc acc b) (n + 1) = bufferOf acc n ++ [b] := by
  rw [bufferOf, bufferOf, List.range_succ, List.map_append, List.map_singleton, Nat.add_sub_cancel, Nat.sub_self,
    appendAcc_getLsbD_zero]
  congr 1
  refine List.map_congr_left fun i hi => ?_
  have hlt : i < n := List.mem_range.mp hi
  have hindex : n - i = n - 1 - i + 1 := by omega
  rw [hindex, appendAcc_getLsbD_succ _ _ _ (by omega)]

/-- Settles O46: the three views of the append, each by its own lemma. -/
theorem appendExtendsBuffer : Obligations.AppendExtendsBuffer := fun acc n b hn =>
  ⟨bufferOf_appendAcc acc b hn, appendAcc_eq_shiftIn acc b, appendAcc_clear acc b n⟩

/-! ## The guard (42_frame_fsm.md R106) -/

section Guard
variable {s : State} {k : Host.Outcome State Fault Refusal}

theorem ifLegal_illFormedConfig (hwf : ¬ s.cfg.wf) : ifLegal s k = .refused .illFormedConfig := if_pos hwf

theorem ifLegal_countOutOfRange (hwf : s.cfg.wf) (hcnt : 60 ≤ s.cnt.toNat) : ifLegal s k = .fault .countOutOfRange := by
  rw [ifLegal, if_neg (not_not.mpr hwf), if_pos hcnt]

theorem ifLegal_registerOutOfRange (hwf : s.cfg.wf) (hcnt : s.cnt.toNat < 60) (hfits : ¬ s.Fits) :
    ifLegal s k = .refused .registerOutOfRange := by
  rw [ifLegal, if_neg (not_not.mpr hwf), if_neg hcnt.not_ge, if_pos hfits]

theorem ifLegal_outsideInvariants (hwf : s.cfg.wf) (hcnt : s.cnt.toNat < 60) (hfits : s.Fits) (hinv : ¬ s.Inv) :
    ifLegal s k = .refused .outsideInvariants := by
  rw [ifLegal, if_neg (not_not.mpr hwf), if_neg hcnt.not_ge, if_neg (not_not.mpr hfits), if_pos hinv]

end Guard

/-- Settles O28: the guard is the same for every command, and its checks are tried in this order. -/
theorem commandPerformedExactlyWhenReady : Obligations.CommandPerformedExactlyWhenReady := by
  intro s i
  refine ⟨⟨fun ⟨_, h⟩ => (exec_next h).1, fun h => ⟨_, exec_of_ready h⟩⟩, ?_⟩
  rw [exec_eq_command]
  refine ⟨ifLegal_illFormedConfig, ifLegal_countOutOfRange, ifLegal_registerOutOfRange, ifLegal_outsideInvariants,
    fun hlegal hi => ?_, fun hlegal hi hpend => ?_⟩
  · rw [command_of_legal hlegal, if_pos hi]
  · rw [command_of_legal hlegal, if_neg (not_not.mpr hi), if_pos hpend]

/-! ## RESET and the reserved op codes (42_frame_fsm.md R118, R119) -/

/-- Settles O25: the effect of RESET is the full reset and its response. -/
theorem resetCommandClearsBuffer : Obligations.ResetCommandClearsBuffer := fun _ _ _ hready => exec_of_ready hready

section OtherResponse
variable (r : Option Status) (s : State)

/-- Every row of PULSE writes the response, and none reads it. -/
theorem pulse_with_resp (t d : Nat) : pulse t d { s with resp := r } = pulse t d s := rfl

theorem effect_with_resp (i : Instr) : effect i { s with resp := r } = effect i s := by
  cases i with
  | pulse t d => exact pulse_with_resp r s t d
  | reset => rfl
  | illegalOp => rfl

/-- The response before a command is read neither by its guard nor by its effect. -/
theorem exec_with_resp (i : Instr) : exec i { s with resp := r } = exec i s := by
  rw [exec_eq_command, exec_eq_command, command, effect_with_resp]
  rfl

end OtherResponse

/-- Settles O27: a reserved op code writes the response only, and no command reads it. -/
theorem reservedOpChangesNothing : Obligations.ReservedOpChangesNothing := fun s _ _ _ hready =>
  ⟨exec_of_ready hready, exec_with_resp (some .illegalOp) s⟩

/-! ## PULSE: the rows that append no bit (42_frame_fsm.md R108, R109, R114, R115, R117) -/

/-- Settles O13: the reference after each command is that of its effect. -/
theorem everyPulseMovesReference : Obligations.EveryPulseMovesReference := fun s t d =>
  ⟨fun hready => ⟨_, exec_of_ready hready, pulse_ref t d s⟩, fun hready => ⟨_, exec_of_ready hready, rfl⟩,
    fun _ hready => ⟨_, exec_of_ready hready, rfl⟩⟩

/-- What a ready state answers to a PULSE, its row being known. -/
theorem exec_pulse_of_ready {s s' : State} {t d : Nat} (hready : s.ReadyFor (.pulse t d)) (he : pulse t d s = s') :
    exec (.pulse t d) s = .next s' :=
  (exec_of_ready hready).trans (congrArg _ he)

/-- Settles O14: the row of a duration that the state does not accept. -/
theorem unexpectedSignalMovesOnlyReference : Obligations.UnexpectedSignalMovesOnlyReference := fun _ _ _ hready hok =>
  exec_pulse_of_ready hready (pulse_unexpected hok)

/-- Only AwaitingStart expects a start pulse (40_pulse_classifier.md R89). -/
theorem expected_eq_start {st : DecState} : expected st = .start ↔ st = .awaitingStart := by
  cases st <;> decide

/-- Settles O22: the category of the duration is START, which only AwaitingStart expects. -/
theorem startPulseMidFrameOnlyMovesReference : Obligations.StartPulseMidFrameOnlyMovesReference := by
  intro s t d hready hst hlo hhi
  have hcat : cat s.cfg d = .start := (cat_eq_start d).mpr ⟨hlo, hhi⟩
  refine unexpectedSignalMovesOnlyReference s t d hready fun hok => hst (expected_eq_start.mp ?_)
  rw [← hok, hcat]

/-- Settles O15: the row of the start pulse; the buffer is empty before it by INV1. -/
theorem startPulseOpensFrame : Obligations.StartPulseOpensFrame := by
  intro s t d hready hok hst
  have ⟨⟨⟨_, _, hinv⟩, _⟩, _⟩ := hready
  obtain ⟨hcnt, hacc⟩ := (State.inv_iff_of_awaitingStart hst).mp hinv
  rw [← hcnt, ← hacc]
  exact exec_pulse_of_ready hready (pulse_start hok hst)

/-- Settles O16: the row of a delta in neither window. -/
theorem invalidIntervalDiscardsFrame : Obligations.InvalidIntervalDiscardsFrame := fun _ _ _ hready hok hst henc =>
  exec_pulse_invalid hready hok hst henc

/-! ## PULSE: the rows that append a bit (42_frame_fsm.md R110 to R112) -/

section AppendRows
variable {s : State} (t d : Nat) (b : Bool)

/-- The state after a pulse that appended the bit `b`, was accepted and left the frame in `v`. -/
def bitAppended (v : DecState) (s : State) : State :=
  { s with st := v, cnt := BitVec.ofNat 6 (s.cnt.toNat + 1), acc := shiftIn s.acc b, ref := t + d, resp := some .accepted }

theorem bitAppended_eq (v : DecState) (s : State) :
    bitAppended t d b v s = (((s.append b).setRef t d).setSt v).respond .accepted := by
  have hcnt : BitVec.ofNat 6 (s.cnt.toNat + 1) = s.cnt + 1 := by rw [BitVec.ofNat_add, BitVec.ofNat_toNat]; rfl
  rw [bitAppended, hcnt, ← appendAcc_eq_shiftIn]
  rfl

/-- The count after the append decides the move (42_frame_fsm.md R110). -/
theorem pulseData_eq_bitAppended (hst : s.st = .collectingBits) (hcnt : s.cnt.toNat ≤ 58) :
    pulseData t d b s = bitAppended t d b (if s.cnt.toNat + 1 = 54 then .awaitingStop else .collectingBits) s := by
  rw [bitAppended_eq, ← cnt_succ_toNat hcnt]
  by_cases h54 : (s.cnt + 1).toNat = 54
  · rw [if_pos h54]
    exact if_pos h54
  · rw [if_neg h54, ← hst]
    exact if_neg h54

theorem pulseStop_eq_bitAppended : pulseStop t d b s = bitAppended t d b .collectingChecksum s :=
  (bitAppended_eq t d b .collectingChecksum s).symm

/-- Up to the 58th bit the frame stays in its state (42_frame_fsm.md R112). -/
theorem pulseChecksum_eq_bitAppended (hcnt : s.cnt.toNat < 58) : pulseChecksum t d b s = bitAppended t d b s.st s := by
  have hlt : (s.cnt + 1).toNat < 59 := by
    rw [cnt_succ_toNat hcnt.le]
    omega
  rw [bitAppended_eq]
  exact if_pos hlt

/-- The 59th bit ends the frame (42_frame_fsm.md R112). -/
theorem pulseChecksum_eq_complete (hcnt : s.cnt.toNat = 58) :
    pulseChecksum t d b s = complete (appendAcc s.acc b) ((s.append b).setRef t d) := by
  have hge : ¬ (s.cnt + 1).toNat < 59 := by
    rw [cnt_succ_toNat hcnt.le]
    omega
  exact if_neg hge

end AppendRows

/-- Settles O17: the row of a data pulse. -/
theorem dataPulseAppendsBit : Obligations.DataPulseAppendsBit := by
  intro s t d b hready hok hst henc
  have hcnt := State.Inv.cnt_le hready.1.1.2.2
  exact exec_pulse_of_ready hready ((pulse_data hok hst henc).trans (pulseData_eq_bitAppended t d b hst hcnt))

/-- Settles O18: the row of the stop pulse; the count before it is 54 by INV3. -/
theorem stopPulseAppendsLastMessageBit : Obligations.StopPulseAppendsLastMessageBit := by
  intro s t d b hready hok hst henc
  have ⟨⟨⟨_, _, hinv⟩, _⟩, _⟩ := hready
  obtain ⟨hcnt, -⟩ := (State.inv_iff_of_awaitingStop hst).mp hinv
  refine exec_pulse_of_ready hready ((pulse_stop hok hst henc).trans ?_)
  rw [pulseStop_eq_bitAppended, bitAppended, hcnt]
  rfl

/-- Settles O19: the row of a checksum pulse that is not the last. -/
theorem checksumPulseAppendsBit : Obligations.ChecksumPulseAppendsBit := by
  intro s t d b hready hok hst henc hcnt
  exact exec_pulse_of_ready hready ((pulse_checksum hok hst henc).trans (pulseChecksum_eq_bitAppended t d b hcnt))

/-! ## The 60 pulses of a frame (42_frame_fsm.md R120) -/

section Progress
variable {s : State}

theorem State.progress_of_awaitingStart (hst : s.st = .awaitingStart) : s.progress = 0 := by
  rw [State.progress, hst]

/-- Once the start pulse has been taken, it counts beside the bits. -/
theorem State.progress_of_ne_awaitingStart (hst : s.st ≠ .awaitingStart) : s.progress = s.cnt.toNat + 1 := by
  cases hs : s.st with
  | awaitingStart => exact absurd hs hst
  | _ => rw [State.progress, hs]

theorem State.Inv.progress_le (hinv : s.Inv) : s.progress ≤ 59 := by
  have hcnt := State.Inv.cnt_le hinv
  by_cases hst : s.st = .awaitingStart
  · rw [State.progress_of_awaitingStart hst]
    omega
  · rw [State.progress_of_ne_awaitingStart hst]
    omega

end Progress

/-- How the response `c` of a PULSE from `s` to `s'` tells the frame's progress: an accepted pulse is one more, an unexpected one
is none, and only the one after 59 ends the frame. -/
def ProgressTold (s s' : State) (c : Status) : Prop :=
  (c = .accepted → s'.progress = s.progress + 1) ∧ (c = .unexpectedSignal → s'.progress = s.progress) ∧
    (c = .completed ∨ c = .checksumReject → s.progress = 59)

section ProgressTold
variable {s s' : State} {c : Status}

theorem progressTold_accepted (h : s'.progress = s.progress + 1) : ProgressTold s s' .accepted := ⟨fun _ => h, nofun, nofun⟩

theorem progressTold_unexpectedSignal (h : s'.progress = s.progress) : ProgressTold s s' .unexpectedSignal :=
  ⟨nofun, fun _ => h, nofun⟩

theorem progressTold_invalidInterval : ProgressTold s s' .invalidInterval := ⟨nofun, nofun, nofun⟩

theorem progressTold_end (hc : c = .completed ∨ c = .checksumReject) (h : s.progress = 59) : ProgressTold s s' c := by
  obtain rfl | rfl := hc
  · exact ⟨nofun, nofun, fun _ => h⟩
  · exact ⟨nofun, nofun, fun _ => h⟩

end ProgressTold

theorem complete_status (A : Acc) (s : State) :
    ∃ c, (complete A s).resp = some c ∧ (c = .completed ∨ c = .checksumReject) := by
  rw [complete]
  split_ifs
  · exact ⟨.completed, rfl, .inl rfl⟩
  · exact ⟨.checksumReject, rfl, .inr rfl⟩

section PulseProgress
variable {s : State} {t d : Nat}

/-- A pulse that carries a bit is accepted and appends it, or carries the 59th and ends the frame. -/
theorem pulse_bit_progress {b : Bool} (hinv : s.Inv) (hok : ok s.cfg s.st d) (hst : s.st ≠ .awaitingStart)
    (henc : enc s.cfg (delta t s.ref) = .bit b) :
    ∃ c, (pulse t d s).resp = some c ∧ ProgressTold s (pulse t d s) c := by
  have hcnt := State.Inv.cnt_le hinv
  have hs := State.progress_of_ne_awaitingStart hst
  obtain hlt | h58 := hcnt.lt_or_eq
  · obtain ⟨v, hv, e⟩ := pulse_appends hok henc hst hlt
    rw [e]
    refine ⟨.accepted, rfl, progressTold_accepted ?_⟩
    rw [State.progress_of_ne_awaitingStart (by exact hv), hs]
    exact congrArg (· + 1) (cnt_succ_toNat hcnt)
  · rw [pulse_checksum hok (st_of_cnt_58 hinv h58) henc, pulseChecksum_eq_complete t d b h58]
    obtain ⟨c, hresp, hc⟩ := complete_status (appendAcc s.acc b) ((s.append b).setRef t d)
    exact ⟨c, hresp, progressTold_end hc (by rw [hs, h58])⟩

/-- The response of every PULSE tells the frame's progress (42_frame_fsm.md R116, R120). -/
theorem pulse_progress (hinv : s.Inv) (t d : Nat) :
    ∃ c, (pulse t d s).resp = some c ∧ ProgressTold s (pulse t d s) c := by
  by_cases hok : ok s.cfg s.st d
  · by_cases hst : s.st = .awaitingStart
    · obtain ⟨hcnt, -⟩ := (State.inv_iff_of_awaitingStart hst).mp hinv
      have hopen : (pulseStart t d s).st ≠ .awaitingStart := nofun
      rw [pulse_start hok hst]
      refine ⟨.accepted, rfl, progressTold_accepted ?_⟩
      rw [State.progress_of_awaitingStart hst, State.progress_of_ne_awaitingStart hopen]
      exact congrArg (·.toNat + 1) hcnt
    · cases henc : enc s.cfg (delta t s.ref) with
      | bit b => exact pulse_bit_progress hinv hok hst henc
      | invalid =>
        rw [pulse_invalid hok hst henc]
        exact ⟨.invalidInterval, rfl, progressTold_invalidInterval⟩
  · rw [pulse_unexpected hok]
    exact ⟨.unexpectedSignal, rfl, progressTold_unexpectedSignal rfl⟩

end PulseProgress

/-! ### Runs of pulses -/

/-- What a run of commands with an answer starts with: one command performed, its response, and the run of the others. -/
theorem responses_cons {i : Instr} {is : List Instr} {s s' : State} {cs : List Status}
    (h : responses (i :: is) s = some (cs, s')) :
    ∃ c cs', cs = c :: cs' ∧ s.ReadyFor i ∧ (effect i s).resp = some c ∧
      responses is (effect i s) = some (cs', s') := by
  rw [responses] at h
  split at h
  · next s₁ hexec =>
    split at h
    · next c cs' s₂ hresp hrest =>
      obtain ⟨hready, rfl⟩ := exec_next hexec
      cases h
      exact ⟨c, cs', rfl, hready, hresp, hrest⟩
    · cases h
  · cases h
  · cases h

/-- The first pulse of a run: its response, what that tells, and the run of the others, from a state with the invariants. -/
theorem responses_pulse_cons {p : Nat × Nat} {ps : List (Nat × Nat)} {s s' : State} {cs : List Status}
    (h : responses (pulseCommands (p :: ps)) s = some (cs, s')) :
    ∃ c cs' s₁, cs = c :: cs' ∧ s₁.Inv ∧ ProgressTold s s₁ c ∧ responses (pulseCommands ps) s₁ = some (cs', s') := by
  obtain ⟨c, cs', rfl, ⟨⟨⟨-, -, hinv⟩, -⟩, -⟩, hresp, hrest⟩ := responses_cons h
  obtain ⟨c₁, hresp₁, htold⟩ := pulse_progress hinv p.1 p.2
  obtain rfl : c₁ = c := Option.some.inj (hresp₁.symm.trans hresp)
  exact ⟨c₁, cs', _, rfl, pulse_inv p.1 p.2 hinv, htold, hrest⟩

/-- A frame that goes on counts its accepted pulses. -/
theorem ProgressTold.count_cons {s s' : State} {c : Status} (h : ProgressTold s s' c)
    (hc : c = .accepted ∨ c = .unexpectedSignal) (cs : List Status) :
    s.progress + (c :: cs).count .accepted = s'.progress + cs.count .accepted := by
  obtain ⟨haccepted, hunexpected, -⟩ := h
  obtain rfl | rfl := hc
  · rw [haccepted rfl, List.count_cons_self]
    omega
  · rw [hunexpected rfl, List.count_cons_of_ne (by decide)]

/-- Along pulses that are accepted or unexpected, the progress grows by the number accepted. -/
theorem progress_add_count {s' : State} (ps : List (Nat × Nat)) :
    ∀ (s : State) (cs : List Status), s.Inv → responses (pulseCommands ps) s = some (cs, s') →
      (∀ c ∈ cs, c = .accepted ∨ c = .unexpectedSignal) →
      s.progress + cs.count .accepted = s'.progress ∧ s'.Inv := by
  induction ps with
  | nil =>
    intro s cs hinv h _
    cases h
    exact ⟨rfl, hinv⟩
  | cons p ps ih =>
    intro s cs hinv h hcs
    obtain ⟨c, cs, s₁, rfl, hinv₁, htold, hrest⟩ := responses_pulse_cons h
    obtain ⟨hc, hcs⟩ := List.forall_mem_cons.mp hcs
    rw [htold.count_cons hc]
    exact ih s₁ cs hinv₁ hrest hcs

/-- The pulse that ends the frame comes after 59 accepted ones. -/
theorem progress_add_count_of_end {s' : State} {c : Status} (hc : c = .completed ∨ c = .checksumReject)
    (ps : List (Nat × Nat)) :
    ∀ (s : State) (cs : List Status), responses (pulseCommands ps) s = some (cs ++ [c], s') →
      (∀ c' ∈ cs, c' = .accepted ∨ c' = .unexpectedSignal) → s.progress + cs.count .accepted = 59 := by
  induction ps with
  | nil =>
    intro s cs h _
    exact absurd (Prod.mk.inj (Option.some.inj h)).1.symm (List.append_ne_nil_of_right_ne_nil cs (List.cons_ne_nil c []))
  | cons p ps ih =>
    intro s cs h hcs
    obtain ⟨c₁, cs₁, s₁, e, -, htold, hrest⟩ := responses_pulse_cons h
    cases cs with
    | nil =>
      obtain ⟨rfl, -⟩ := List.cons.inj e
      obtain ⟨-, -, hend⟩ := htold
      exact hend hc
    | cons c' cs =>
      obtain ⟨rfl, rfl⟩ := List.cons.inj e
      obtain ⟨hc', hcs⟩ := List.forall_mem_cons.mp hcs
      rw [htold.count_cons hc']
      exact ih s₁ cs hrest hcs

/-- Settles O53: by induction on the pulses, progress counts the accepted ones; the invariants bound it, and the frame ends where
it is 59. -/
theorem frameTakesSixtyPulses : Obligations.FrameTakesSixtyPulses := by
  intro s s' ps cs hinv h
  constructor
  · intro hcs
    obtain ⟨hcount, hinv'⟩ := progress_add_count ps s cs hinv h hcs
    exact ⟨hcount, State.Inv.progress_le hinv'⟩
  · rintro cs' c rfl hcs' hc
    exact progress_add_count_of_end hc ps s cs' h hcs'

end Sys2Proof.Machine
end

section
/-! PROOFS. The packet decoder statements about the decode event: its fields as buffer bits and nibbles, what it omits, and the
rendered identifier (43_packet_decoder.md R122 to R124, R130, R131, R133). -/

namespace Sys2Proof.Machine

/-! ## A field of the accumulator is a run of buffer bits (20_memory.md R48) -/

section Field
variable {A B : Acc} {lo w : Nat}

theorem field_getLsbD (A : Acc) {i : Nat} (hi : i < w) (hlo : lo + i ≤ 58) :
    (A.extractLsb' lo w).getLsbD i = bufBit A (58 - (lo + i)) := by
  have hindex : 58 - (58 - (lo + i)) = lo + i := by omega
  rw [BitVec.getLsbD_extractLsb', decide_eq_true hi, Bool.true_and, bufBit, hindex]

/-- A field leaves out every buffer bit outside its own indices. -/
theorem field_congr (hw : lo + w ≤ 59)
    (h : ∀ i, 59 - (lo + w) ≤ i → i < 59 - lo → bufBit A i = bufBit B i) : A.extractLsb' lo w = B.extractLsb' lo w := by
  apply BitVec.eq_of_getLsbD_eq
  intro i hi
  rw [field_getLsbD A hi (by omega), field_getLsbD B hi (by omega), h _ (by omega) (by omega)]

theorem field_of_field (A : Acc) {p n : Nat} (hp : p + n ≤ w) :
    (A.extractLsb' lo w).extractLsb' p n = A.extractLsb' (lo + p) n := by
  apply BitVec.eq_of_getLsbD_eq
  intro i hi
  rw [BitVec.getLsbD_extractLsb', BitVec.getLsbD_extractLsb', BitVec.getLsbD_extractLsb',
    decide_eq_true (show p + i < w by omega), Bool.true_and, Nat.add_assoc]

/-- A nibble of a field of the accumulator is a nibble of the buffer. -/
theorem field_nibble (A : Acc) {p k : Nat} (hp : p + 4 ≤ w) (hk : lo + p = 55 - 4 * k) (hk' : k ≤ 13) :
    ((A.extractLsb' lo w).extractLsb' p 4).toNat = nibble A k := by
  rw [field_of_field A hp, hk, nibbleFieldIsItsValue A k hk']

end Field

/-! ## The identifier (43_packet_decoder.md R122) -/

/-- A 24-bit value in base 16, its digits the six 4-bit fields. -/
theorem toNat_eq_sixDigits (v : BitVec 24) :
    v.toNat =
      (v.extractLsb' 20 4).toNat * 16 ^ 5 + (v.extractLsb' 16 4).toNat * 16 ^ 4 + (v.extractLsb' 12 4).toNat * 16 ^ 3 +
        (v.extractLsb' 8 4).toNat * 16 ^ 2 + (v.extractLsb' 4 4).toNat * 16 + (v.extractLsb' 0 4).toNat := by
  have hlt := v.isLt
  simp only [BitVec.extractLsb'_toNat, Nat.shiftRight_eq_div_pow]
  omega

theorem sensorId_nibble (A : Acc) (p k : Nat) (hpk : p + 4 * k = 32) (hk : 3 ≤ k) :
    ((sensorId A).extractLsb' p 4).toNat = nibble A k :=
  field_nibble A (by omega) (by omega) (by omega)

/-- Settles O48: the digits of the identifier in base 16 are nibbles 3 to 8. -/
theorem identifierIsSixNibbles : Obligations.IdentifierIsSixNibbles := by
  intro A
  refine ⟨rfl, ?_⟩
  rw [toNat_eq_sixDigits, sensorId_nibble A 20 3, sensorId_nibble A 16 4, sensorId_nibble A 12 5, sensorId_nibble A 8 6,
    sensorId_nibble A 4 7, sensorId_nibble A 0 8] <;> decide

/-! ## The raw groups and the checksum bits (43_packet_decoder.md R123, R124, R131) -/

theorem rawPayload_getLsbD (A : Acc) {i : Nat} (hi : i < 20) : (rawPayload A).getLsbD i = bufBit A (58 - (3 + i)) :=
  field_getLsbD A hi (by omega)

theorem rawTuple_rawPayload (A : Acc) {j : Nat} (hj : j < 5) :
    rawTuple (rawPayload A) j =
      (bufBit A (36 + 4 * j), bufBit A (37 + 4 * j), bufBit A (38 + 4 * j), bufBit A (39 + 4 * j)) := by
  have hbit {i k : Nat} (hi : i < 20) (hk : 58 - (3 + i) = k) : (rawPayload A).getLsbD i = bufBit A k :=
    hk ▸ rawPayload_getLsbD A hi
  rw [rawTuple, hbit (i := 19 - 4 * j), hbit (i := 18 - 4 * j), hbit (i := 17 - 4 * j), hbit (i := 16 - 4 * j)] <;> omega

theorem getElem?_rawTuples (raw : BitVec 20) {j : Nat} (hj : j < 5) : (rawTuples raw)[j]? = some (rawTuple raw j) := by
  rw [rawTuples, List.getElem?_map, List.getElem?_range (show j < Config.rawGroups from hj), Option.map_some]

theorem length_rawTuples (raw : BitVec 20) : (rawTuples raw).length = 5 := rfl

/-- Settles O49: the payload and the checksum are fields of the accumulator, so their bits are buffer bits, in order. -/
theorem rawGroupsAndChecksumBits : Obligations.RawGroupsAndChecksumBits := by
  intro A
  refine ⟨fun j hj => ⟨?_, ?_⟩, length_rawTuples _, fun j hj => ?_⟩
  · exact field_nibble A (by omega) (by omega) (by omega)
  · rw [getElem?_rawTuples _ hj, rawTuple_rawPayload A hj]
  · have hindex : 58 - (0 + (3 - j)) = 55 + j := by omega
    rw [checksumBits, field_getLsbD A (by omega) (by omega), hindex]

/-! ## What the event omits (43_packet_decoder.md R133) -/

/-- Settles O50: `id`, `raw` and `cs` are fields of the accumulator, at buffer indices 12..35, 36..55 and 55..58. -/
theorem eventOmitsSynchronisationBits : Obligations.EventOmitsSynchronisationBits := by
  intro A B ts
  have hid (h : ∀ i, 12 ≤ i → i < 56 → bufBit A i = bufBit B i) : sensorId A = sensorId B :=
    field_congr (by decide) fun i _ _ => h i (by omega) (by omega)
  have hraw (h : ∀ i, 12 ≤ i → i < 56 → bufBit A i = bufBit B i) : rawPayload A = rawPayload B :=
    field_congr (by decide) fun i _ _ => h i (by omega) (by omega)
  refine ⟨fun h => ?_, fun h => ⟨hid h, hraw h⟩⟩
  have hmsg : ∀ i, 12 ≤ i → i < 56 → bufBit A i = bufBit B i := fun i hlo hhi => h i hlo (by omega)
  have hcs : checksumBits A = checksumBits B := field_congr (by decide) fun i _ _ => h i (by omega) (by omega)
  rw [decodeEvent, hid hmsg, hraw hmsg, hcs, decodeEvent]

/-! ## The rendered identifier (43_packet_decoder.md R130; entry 14) -/

/-- A digit reads back as its nibble, whichever half of the alphabet it is from. -/
theorem hexDigit_value :
    ∀ n : BitVec 4, (if (hexDigit n).toNat < 58 then (hexDigit n).toNat - 48 else (hexDigit n).toNat - 87) = n.toNat := by
  decide

theorem hexValue_map_hexDigit (ns : List (BitVec 4)) :
    hexValue (ns.map hexDigit) = ns.foldl (fun n v => n * 16 + v.toNat) 0 := by
  simp only [hexValue, List.foldl_map, hexDigit_value]

theorem renderId_eq_map_hexDigit (id : BitVec 24) :
    renderId id = ([20, 16, 12, 8, 4, 0].map fun p => id.extractLsb' p 4).map hexDigit := rfl

/-- Settles O51: the six digits read back as the identifier's nibbles, and those spell it in base 16. -/
theorem renderedIdentifierHasSixDigits : Obligations.RenderedIdentifierHasSixDigits := by
  intro id
  refine ⟨rfl, ?_⟩
  rw [renderId_eq_map_hexDigit, hexValue_map_hexDigit, toNat_eq_sixDigits]
  simp only [List.map_cons, List.map_nil, List.foldl_cons, List.foldl_nil]
  omega

end Sys2Proof.Machine
end

section
/-! PROOFS. The packet decoder statements about the end of a frame and the message port: the 59th bit, the one event it raises,
and the handshake that takes it (43_packet_decoder.md R126 to R129, R134). -/

namespace Sys2Proof.Machine

/-! ## The checksum validator (43_packet_decoder.md R127, R128) -/

theorem csCheck_iff (m : CsMode) (A : Acc) :
    csCheck m A = true ↔ m = .none ∨ Config.validator (A.extractLsb' 4 55) (A.extractLsb' 0 4) = true := by
  cases m with
  | none => exact iff_of_true rfl (.inl rfl)
  | pluggable => exact (or_iff_right nofun).symm

/-! ## The 59th bit (43_packet_decoder.md R126, R128) -/

section LastBit
variable {s : State} {t d : Nat} {b : Bool}

/-- The state after a frame was dropped whose last pulse ended at `T`: no event, and the message register kept
(43_packet_decoder.md R128). -/
def frameRejected (T : Nat) (s : State) : State :=
  { s with st := .awaitingStart, cnt := 0, acc := 0, ref := T, resp := some .checksumReject }

/-- A pulse that carries the 59th bit, where the check fails, drops the frame. -/
theorem pulse_rejects (hok : ok s.cfg s.st d) (henc : enc s.cfg (delta t s.ref) = .bit b)
    (hst : s.st = .collectingChecksum) (hcnt : s.cnt.toNat = 58)
    (hcheck : csCheck s.cfg.csMode (appendAcc s.acc b) = false) : pulse t d s = frameRejected (t + d) s := by
  rw [pulse_checksum hok hst henc, pulseChecksum_eq_complete t d b hcnt]
  exact complete_reject hcheck

/-- With 58 bits in the buffer, COMPLETED is answered only to the pulse that carries one more and passes the check. -/
theorem of_pulse_completed (hst : s.st = .collectingChecksum) (hcnt : s.cnt.toNat = 58)
    (h : (pulse t d s).resp = some .completed) :
    ok s.cfg s.st d ∧ ∃ b, enc s.cfg (delta t s.ref) = .bit b ∧ csCheck s.cfg.csMode (appendAcc s.acc b) = true := by
  by_cases hok : ok s.cfg s.st d
  · refine ⟨hok, ?_⟩
    cases henc : enc s.cfg (delta t s.ref) with
    | invalid =>
      rw [pulse_invalid hok (hst ▸ nofun) henc] at h
      cases h
    | bit b =>
      refine ⟨b, rfl, ?_⟩
      by_contra hcheck
      rw [pulse_rejects hok henc hst hcnt (Bool.eq_false_of_not_eq_true hcheck)] at h
      cases h
  · rw [pulse_unexpected hok] at h
    cases h

/-- Of the commands, only a PULSE is answered COMPLETED. -/
theorem of_effect_completed {i : Instr} (h : (effect i s).resp = some .completed) :
    ∃ t d, i = .pulse t d ∧ (pulse t d s).resp = some .completed := by
  cases i with
  | pulse t d => exact ⟨t, d, rfl, h⟩
  | reset => cases h
  | illegalOp => cases h

end LastBit

/-- Settles O20: the 59th bit completes the frame or has it dropped, as the check answers. -/
theorem lastChecksumPulseCompletesFrame : Obligations.LastChecksumPulseCompletesFrame := by
  intro s t d b hready hok hst henc hcnt A done event
  have hA : appendAcc s.acc b = A := appendAcc_eq_shiftIn s.acc b
  have hcheck := csCheck_iff s.cfg.csMode A
  split_ifs with hpass
  · have hevent := pulse_completes hok henc hst hcnt (hA ▸ hcheck.mpr hpass)
    rw [hA] at hevent
    exact exec_pulse_of_ready hready hevent
  · exact exec_pulse_of_ready hready (pulse_rejects hok henc hst hcnt (hA ▸ Bool.eq_false_iff.mpr (mt hcheck.mp hpass)))

/-! ## The event on the message port (43_packet_decoder.md R129, R134) -/

/-- A step that raises `pend` accepted a command, and that command completed a frame. -/
theorem step_raises_pend {s s' : State} (h : step s = .next s') (hpend : s.pend = false) (hpend' : s'.pend = true) :
    accepts s (pinsOf s) = true ∧ s' = effect (decode s.cfg.wT ((pinsOf s).word s.cfg.wT)) (sampled s) ∧
      Completes (sampled s) s' := by
  obtain ⟨-, -, ⟨-, rfl⟩ | ⟨hacc, ⟨⟨⟨-, -, hinv⟩, -⟩, -⟩, rfl⟩ | ⟨hhand, -, rfl⟩ | ⟨-, -, -, -, rfl⟩⟩ := step_cases h
  · cases hpend'
  · obtain ⟨hsame, -⟩ | hcompletes := effect_event (decode s.cfg.wT ((pinsOf s).word s.cfg.wT)) (State.Inv.cnt_le hinv)
    · rw [hsame, sampled_pend, hpend] at hpend'
      cases hpend'
    · exact ⟨hacc, rfl, hcompletes⟩
  · cases hpend'
  · rw [sampled_pend, hpend] at hpend'
    cases hpend'

/-- Settles O42: the command that raised `pend` is a PULSE, which carried the 59th bit and passed the check. -/
theorem onlyCompletionRaisesEvent : Obligations.OnlyCompletionRaisesEvent := by
  intro s s' h hpend hpend'
  obtain ⟨hacc, rfl, hresp, hst, hcnt, -⟩ := step_raises_pend h hpend hpend'
  obtain ⟨t, d, hi, hpulse⟩ := of_effect_completed hresp
  obtain ⟨hok, b, henc, hcheck⟩ := of_pulse_completed hst hcnt hpulse
  rw [appendAcc_eq_shiftIn] at hcheck
  exact ⟨hacc, hst, hcnt, hresp, t, d, b, hi, hok, henc, (csCheck_iff _ _).mp hcheck⟩

/-- Until the host takes the event, an edge without reset leaves the state as the sampled pins make it. -/
theorem step_eq_sampled_of_pend {s s' : State} (h : step s = .next s') (hpend : s.pend = true)
    (hrst : (pinsOf s).rst = false) (hready : (pinsOf s).msgReady = false) : s' = sampled s := by
  obtain ⟨-, -, ⟨hrst', -⟩ | ⟨hacc, -, -⟩ | ⟨hhand, -, -⟩ | ⟨-, -, -, -, e⟩⟩ := step_cases h
  · rw [hrst] at hrst'
    cases hrst'
  · rw [not_accepts_of_pend hpend] at hacc
    cases hacc
  · rw [not_handshake_of_not_ready hready] at hhand
    cases hhand
  · exact e

theorem handshake_of_ready {s : State} {p : PortIn} (hpend : s.pend = true) (hready : p.msgReady = true)
    (hrst : p.rst = false) : handshake s p = true := by
  rw [handshake, hpend, hready, hrst]
  rfl

/-- Settles O38: the edge with a reader is the handshake, and the one without keeps what the port shows. -/
theorem handshakeTakesEvent : Obligations.HandshakeTakesEvent := by
  constructor
  · intro s p ps hl hpend hin hfits hrst hready
    obtain rfl := pinsOf_of_cons hin
    rw [step_handshake hl hfits (handshake_of_ready hpend hready hrst), sampled_of_cons hin]
    rfl
  · intro s s' rst h hpend hrst hready
    obtain rfl := step_eq_sampled_of_pend h hpend hrst hready
    refine ⟨hpend, if_pos hpend, ?_⟩
    simp [outputs, inReady, hpend]

end Sys2Proof.Machine
end

section
/-! PROOFS. The packet decoder statement about timestamps: a step commutes with blanking them, so no run depends on them
(43_packet_decoder.md R125, R132). -/

namespace Sys2Proof.Machine

/-! ## Blanking and the pins -/

section Pins
variable {s : State}

theorem pinsOf_blankStamps (s : State) : pinsOf s.blankStamps = { pinsOf s with now := 0 } := by
  cases hin : s.inputs with
  | nil => simp [pinsOf, State.blankStamps, hin, PortIn.idle]
  | cons p ps => simp [pinsOf, State.blankStamps, hin]

/-- The blanked pins are what a blanked state samples. -/
theorem sampled_blankStamps (s : State) : sampled s.blankStamps = (sampled s).blankStamps := by
  rw [sampled, pinsOf_blankStamps, State.blankStamps, sampled, State.blankStamps, List.map_tail]

theorem pinsOf_now_lt (h : s.StampsFit) : (pinsOf s).now < 2 ^ s.cfg.wTS := by
  obtain ⟨-, hnow, hpins⟩ := h
  cases hin : s.inputs with
  | nil =>
    rw [pinsOf, hin]
    exact hnow
  | cons p ps =>
    rw [pinsOf_of_cons hin]
    exact hpins p (hin ▸ List.mem_cons_self)

theorem sampled_stampsFit (h : s.StampsFit) : (sampled s).StampsFit := by
  have hnow := pinsOf_now_lt h
  obtain ⟨hts, -, hpins⟩ := h
  exact ⟨hts, hnow, fun p hp => hpins p (List.mem_of_mem_tail hp)⟩

/-- The pins' width check tells no timestamp that fits from 0. -/
theorem pinsOf_blankStamps_fits (h : s.StampsFit) :
    (pinsOf s.blankStamps).Fits s.cfg ↔ (pinsOf s).Fits s.cfg := by
  rw [pinsOf_blankStamps]
  exact and_congr_right fun _ => and_congr_right fun _ => iff_of_true (Nat.two_pow_pos _) (pinsOf_now_lt h)

/-- Nor does the registers' width check. -/
theorem blankStamps_fits (h : s.StampsFit) : s.blankStamps.Fits ↔ s.Fits := by
  obtain ⟨hts, hnow, -⟩ := h
  exact and_congr_right fun _ => iff_of_true ⟨Nat.two_pow_pos _, Nat.two_pow_pos _⟩ ⟨hts, hnow⟩

end Pins

/-! ## Blanking and the commands -/

section Commands
variable (t d : Nat) (b : Bool) (s : State)

/-- The end of a frame copies the level of `now` into the event and reads it for nothing else (43_packet_decoder.md R125). -/
theorem complete_blankStamps (A : Acc) : complete A s.blankStamps = (complete A s).blankStamps := by
  rw [complete, complete, apply_ite State.blankStamps]
  rfl

theorem pulseData_blankStamps : pulseData t d b s.blankStamps = (pulseData t d b s).blankStamps := by
  rw [pulseData, pulseData, apply_ite State.blankStamps]
  rfl

theorem pulseChecksum_blankStamps : pulseChecksum t d b s.blankStamps = (pulseChecksum t d b s).blankStamps := by
  rw [pulseChecksum, pulseChecksum, apply_ite State.blankStamps, ← complete_blankStamps]
  rfl

theorem withBit_blankStamps {k : Bool → State → State} (hk : ∀ b, k b s.blankStamps = (k b s).blankStamps) :
    withBit t d k s.blankStamps = (withBit t d k s).blankStamps := by
  have hcfg : enc s.blankStamps.cfg (delta t s.blankStamps.ref) = enc s.cfg (delta t s.ref) := rfl
  rw [withBit, withBit, hcfg]
  cases enc s.cfg (delta t s.ref) with
  | invalid => rfl
  | bit b => exact hk b

theorem pulse_blankStamps : pulse t d s.blankStamps = (pulse t d s).blankStamps := by
  have hst : s.blankStamps.st = s.st := rfl
  rw [pulse, pulse, apply_ite State.blankStamps, hst]
  refine if_congr Iff.rfl rfl ?_
  cases s.st with
  | awaitingStart => rfl
  | collectingBits => exact withBit_blankStamps t d s fun b => pulseData_blankStamps t d b s
  | awaitingStop => exact withBit_blankStamps t d s fun _ => rfl
  | collectingChecksum => exact withBit_blankStamps t d s fun b => pulseChecksum_blankStamps t d b s

theorem effect_blankStamps (i : Instr) : effect i s.blankStamps = (effect i s).blankStamps := by
  cases i with
  | pulse t d => exact pulse_blankStamps t d s
  | reset => rfl
  | illegalOp => rfl

end Commands

section Guard
variable {s : State}

theorem ifLegal_blankStamps (h : s.StampsFit) (k : Host.Outcome State Fault Refusal) :
    ifLegal s.blankStamps (mapNext State.blankStamps k) = mapNext State.blankStamps (ifLegal s k) := by
  simp only [ifLegal, blankStamps_fits h, apply_ite (mapNext State.blankStamps)]
  rfl

theorem exec_blankStamps (h : s.StampsFit) (i : Instr) :
    exec i s.blankStamps = mapNext State.blankStamps (exec i s) := by
  rw [exec_eq_command, exec_eq_command, command, command, ← ifLegal_blankStamps h, effect_blankStamps]
  simp only [apply_ite (mapNext State.blankStamps)]
  rfl

end Guard

/-! ## Blanking and the runs -/

section Runs
variable {s s' : State}

theorem step_of_not_wf (hc : ¬ s.cfg.wf) : step s = .refused .illFormedConfig := if_pos hc

/-- A step of the state without timestamps is the step without timestamps. -/
theorem step_blankStamps (h : s.StampsFit) : step s.blankStamps = mapNext State.blankStamps (step s) := by
  have hfits := pinsOf_blankStamps_fits h
  by_cases hc : s.cfg.wf
  · by_cases hp : (pinsOf s).Fits s.cfg
    · rw [step_checked (s := s.blankStamps) hc (hfits.mpr hp), step_checked hc hp]
      simp only [apply_ite (mapNext State.blankStamps), ← exec_blankStamps (sampled_stampsFit h),
        ← ifLegal_blankStamps (sampled_stampsFit h), pinsOf_blankStamps, sampled_blankStamps]
      rfl
    · rw [step_pins hc hp, step_pins (s := s.blankStamps) hc (mt hfits.mp hp)]
      rfl
  · rw [step_of_not_wf hc, step_of_not_wf (s := s.blankStamps) hc]
    rfl

theorem step_inputs (h : step s = .next s') : s'.inputs = s.inputs.tail := by
  obtain ⟨-, -, ⟨-, rfl⟩ | ⟨-, -, rfl⟩ | ⟨-, -, rfl⟩ | ⟨-, -, -, -, rfl⟩⟩ := step_cases h
  · rfl
  · obtain ⟨-, -, hinputs⟩ := effect_samePins (decode s.cfg.wT ((pinsOf s).word s.cfg.wT)) (sampled s)
    exact hinputs
  · rfl
  · rfl

/-- The timestamps a step holds are checked, and those to come are ones that were to come. -/
theorem step_stampsFit (h : s.StampsFit) (hstep : step s = .next s') : s'.StampsFit := by
  obtain ⟨-, -, hpins⟩ := h
  obtain ⟨-, ⟨-, hts, hnow⟩, hcfg, -⟩ := stepKeepsInvariants s s' hstep
  refine ⟨hts, hnow, fun p hp => ?_⟩
  rw [step_inputs hstep] at hp
  rw [hcfg]
  exact hpins p (List.mem_of_mem_tail hp)

/-- A run of the state without timestamps is the run without timestamps. -/
theorem runSteps_blankStamps (k : Nat) :
    ∀ s : State, s.StampsFit → runSteps k s.blankStamps = mapNext State.blankStamps (runSteps k s) := by
  induction k with
  | zero => exact fun _ _ => rfl
  | succ k ih =>
    intro s h
    rw [runSteps, runSteps, step_blankStamps h]
    cases hstep : step s with
    | next s' => exact ih s' (step_stampsFit h hstep)
    | fault => rfl
    | refused => rfl

end Runs

/-- Settles O52: both runs, without their timestamps, are the run of the one state that the two are without theirs. -/
theorem timestampsInfluenceNothing : Obligations.TimestampsInfluenceNothing := by
  intro k a b ha hb hab
  rw [← runSteps_blankStamps k a ha, hab, runSteps_blankStamps k b hb]

end Sys2Proof.Machine
end

section
/-! PROOFS. The exceptions statements: every command completes with one status, nothing but a command, the reset pin and the
message handshake advances state, and instances share nothing (60_exceptions.md R141, R144, R150 to R154). -/

namespace Sys2Proof.Machine

/-! ## No command traps (60_exceptions.md R141) -/

/-- Only a count out of range makes the guard fault. -/
theorem ifLegal_fault {s : State} {k : Host.Outcome State Fault Refusal} {f : Fault} (h : ifLegal s k = .fault f) :
    60 ≤ s.cnt.toNat ∨ k = .fault f := by
  unfold ifLegal at h
  split_ifs at h with _ hcnt
  · exact .inl hcnt
  · exact .inr h

theorem exec_fault {s : State} {i : Instr} {f : Fault} (h : exec i s = .fault f) : 60 ≤ s.cnt.toNat := by
  rw [exec_eq_command] at h
  obtain hcnt | hbody := ifLegal_fault h
  · exact hcnt
  · split_ifs at hbody

/-- Settles O29: every effect responds, and the one fault needs a count that the invariants exclude. -/
theorem everyCommandCompletesWithOneResponse : Obligations.EveryCommandCompletesWithOneResponse := by
  intro s i
  refine ⟨fun hready => ?_, fun hinv f hfault => ?_⟩
  · obtain ⟨c, hc⟩ := effect_resp i s
    exact ⟨effect i s, c, exec_of_ready hready, hc⟩
  · have hle := State.Inv.cnt_le hinv
    have hge := exec_fault hfault
    omega

/-! ## The one status of a PULSE (60_exceptions.md R144) -/

section PulseStatus
variable {s : State} {t d : Nat} {b : Bool}

/-- With no event pending before, the one pending after the 59th bit tells whether the frame completed or was dropped. -/
theorem pulse_last_resp (hok : ok s.cfg s.st d) (henc : enc s.cfg (delta t s.ref) = .bit b)
    (hst : s.st = .collectingChecksum) (hcnt : s.cnt.toNat = 58) (hpend : s.pend = false) :
    (pulse t d s).resp = some (if (pulse t d s).pend then .completed else .checksumReject) := by
  cases hcheck : csCheck s.cfg.csMode (appendAcc s.acc b) with
  | true =>
    rw [pulse_completes hok henc hst hcnt hcheck]
    rfl
  | false =>
    rw [pulse_rejects hok henc hst hcnt hcheck, frameRejected, hpend]
    rfl

/-- A bit is accepted, unless it is the 59th (42_frame_fsm.md R110 to R112). -/
theorem pulse_bit_resp (hinv : s.Inv) (hpend : s.pend = false) (hok : ok s.cfg s.st d) (hst : s.st ≠ .awaitingStart)
    (henc : enc s.cfg (delta t s.ref) = .bit b) :
    (pulse t d s).resp = some (
      if s.st = .collectingChecksum ∧ s.cnt.toNat = 58 then
        (if (pulse t d s).pend then .completed else .checksumReject)
      else .accepted) := by
  by_cases hlast : s.st = .collectingChecksum ∧ s.cnt.toNat = 58
  · rw [if_pos hlast]
    exact pulse_last_resp hok henc hlast.1 hlast.2 hpend
  · rw [if_neg hlast]
    have hle := State.Inv.cnt_le hinv
    have hne : s.cnt.toNat ≠ 58 := fun hcnt => hlast ⟨st_of_cnt_58 hinv hcnt, hcnt⟩
    obtain ⟨v, -, e⟩ := pulse_appends hok henc hst (by omega)
    rw [e]
    rfl

end PulseStatus

/-- Settles O21: the conditions are split in the rule's order, and each leaves one row of PULSE. -/
theorem pulseStatusPriority : Obligations.PulseStatusPriority := by
  intro s t d hready
  have ⟨⟨⟨_, _, hinv⟩, hpend⟩, _⟩ := hready
  refine ⟨pulse t d s, exec_of_ready hready, ?_, fun hok => ?_⟩
  · rw [← delta_eq_sub]
    by_cases hok : ok s.cfg s.st d
    · rw [if_neg (not_not.mpr hok)]
      by_cases hst : s.st = .awaitingStart
      · rw [if_pos hst, pulse_start hok hst]
        rfl
      · rw [if_neg hst]
        cases henc : enc s.cfg (delta t s.ref) with
        | invalid =>
          rw [if_pos rfl, pulse_invalid hok hst henc]
          rfl
        | bit b =>
          rw [if_neg nofun]
          exact pulse_bit_resp hinv hpend hok hst henc
    · rw [if_pos hok, pulse_unexpected hok]
      rfl
  · rw [pulse_unexpected hok]
    exact ⟨rfl, rfl, rfl⟩

/-! ## What advances state (60_exceptions.md R150, R153, R154) -/

section Idle
variable {s : State} {p : PortIn}

theorem not_accepts_of_not_offered (h : p.inValid = false) : accepts s p = false := by
  rw [accepts, h, Bool.false_and]

theorem not_handshake_of_not_pend (h : s.pend = false) : handshake s p = false := by
  rw [handshake, h, Bool.false_and, Bool.false_and]

theorem pinsOf_of_nil (h : s.inputs = []) : pinsOf s = PortIn.idle s.now := by
  rw [pinsOf, h]
  rfl

theorem sampled_of_nil (h : s.inputs = []) : sampled s = { s with resp := none } := by
  rw [sampled, pinsOf_of_nil h, h, List.tail_nil, ← h]
  rfl

end Idle

/-- Settles O39: an edge at which nothing is offered and no event is taken is a quiet one, and idle pins make it so. -/
theorem idleKeepsAllState : Obligations.IdleKeepsAllState := by
  constructor
  · intro s p ps hready hin hfits hrst hvalid
    obtain ⟨hlegal, hpend⟩ := hready
    obtain rfl := pinsOf_of_cons hin
    rw [step_quiet hlegal hfits hrst (not_accepts_of_not_offered hvalid) (not_handshake_of_not_pend hpend),
      sampled_of_cons hin]
  · intro s hlegal hin
    have hidle := pinsOf_of_nil hin
    rw [step_quiet hlegal (pinsOf_fits_of_nil hlegal hin) (hidle ▸ rfl) (not_accepts_of_not_offered (hidle ▸ rfl))
      (not_handshake_of_not_ready (hidle ▸ rfl)), sampled_of_nil hin]

theorem sampled_arch (s : State) : (sampled s).arch = s.arch := rfl

/-- The message handshake clears `pend` and only `pend` (43_packet_decoder.md R129). -/
theorem takeEvent_arch (s : State) : s.takeEvent.arch = (s.st, s.cnt, s.acc, s.ref, false, s.mq) := rfl

/-- Without reset and without a command, an edge that goes on is the handshake or a quiet one (60_exceptions.md R150). -/
theorem step_of_not_accepts {s s' : State} (h : step s = .next s') (hrst : (pinsOf s).rst = false)
    (hacc : accepts s (pinsOf s) = false) :
    s' = if handshake s (pinsOf s) then (sampled s).takeEvent else sampled s := by
  obtain ⟨-, -, ⟨hrst', -⟩ | ⟨hacc', -⟩ | ⟨hhand, -, rfl⟩ | ⟨-, -, hhand, -, rfl⟩⟩ := step_cases h
  · exact absurd hrst' (Bool.eq_false_iff.mp hrst)
  · exact absurd hacc' (Bool.eq_false_iff.mp hacc)
  · exact (if_pos hhand).symm
  · exact (if_neg (Bool.eq_false_iff.mp hhand)).symm

/-- Settles O40: the pins are no state elements, and the handshake writes `pend` alone. -/
theorem onlyCommandResetOrHandshakeAdvances : Obligations.OnlyCommandResetOrHandshakeAdvances := by
  intro s s' h hrst hacc
  rw [step_of_not_accepts h hrst hacc]
  refine ⟨fun hhand => ?_, fun hhand => ?_⟩
  · rw [if_neg (Bool.eq_false_iff.mp hhand), sampled_arch]
  · rw [if_pos hhand, takeEvent_arch]
    rfl

/-! ## Instances (60_exceptions.md R151) -/

/-- Everything a step of instance `k` that goes on can do: nothing where there is no such instance, or the step of the one there
is (entry 15). -/
theorem stepInstance_cases {k : Nat} {b b' : List State} (h : stepInstance k b = .next b') :
    b[k]? = none ∧ b' = b ∨ ∃ s s', b[k]? = some s ∧ step s = .next s' ∧ b' = b.set k s' := by
  unfold stepInstance at h
  split at h
  · next hk =>
    cases h
    exact .inl ⟨hk, rfl⟩
  · next s hk =>
    split at h
    · next s' hs =>
      cases h
      exact .inr ⟨s, s', hk, hs, rfl⟩
    · cases h
    · cases h

/-- Settles O58: a list with instance `k` replaced keeps its length and its other elements. -/
theorem instancesShareNothing : Obligations.InstancesShareNothing := by
  intro k b b' h
  obtain ⟨hk, rfl⟩ | ⟨s, s', hk, hs, rfl⟩ := stepInstance_cases h
  · refine ⟨rfl, fun _ _ => rfl, fun s hs => ?_⟩
    rw [hk] at hs
    cases hs
  · obtain ⟨hlt, -⟩ := List.getElem?_eq_some_iff.mp hk
    refine ⟨List.length_set, fun j hj => List.getElem?_set_ne hj.symm, fun t ht => ?_⟩
    obtain rfl : s = t := Option.some.inj (hk.symm.trans ht)
    exact ⟨s', hs, List.getElem?_set_self hlt⟩

end Sys2Proof.Machine
end

section
/-! PROOFS. The reset statements: RESET twice is RESET once, and the reset pin wins over everything else at its edge
(70_reset_and_hazards.md R161, R163). -/

namespace Sys2Proof.Machine

/-! ## RESET (70_reset_and_hazards.md R163) -/

/-- In AwaitingStart the buffer is empty already (10_state.md R32), so there is nothing for the full reset to clear. -/
theorem State.fullReset_eq_self {s : State} (hst : s.st = .awaitingStart) (hinv : s.Inv) : s.fullReset = s := by
  obtain ⟨hcnt, hacc⟩ := (State.inv_iff_of_awaitingStart hst).mp hinv
  rw [State.fullReset, ← hst, ← hcnt, ← hacc]

/-- Settles O26: RESET is a full reset, which changes nothing in AwaitingStart and leads from one ready state to another. -/
theorem resetCommandIsIdempotent : Obligations.ResetCommandIsIdempotent := by
  intro s t d t' d' hready hready'
  refine ⟨fun hst _ => ?_, s.fullReset.respond .resetDone, exec_of_ready hready, ?_⟩
  · have ⟨⟨⟨_, _, hinv⟩, _⟩, _⟩ := hready
    have heffect : effect (.reset t d) s = s.respond .resetDone :=
      congrArg (State.respond .resetDone) (State.fullReset_eq_self hst hinv)
    rw [exec_of_ready hready, heffect]
    rfl
  · obtain ⟨⟨-, hpend⟩, hi'⟩ := hready'
    have hagain : (s.fullReset.respond .resetDone).ReadyFor (.reset t' d') := ⟨effect_ready hready hpend, hi'⟩
    exact exec_of_ready hagain

/-! ## The reset pin (70_reset_and_hazards.md R161) -/

theorem not_inReady_of_rst {s : State} {rst : Bool} (h : rst = true) : inReady s rst = false := by
  rw [inReady, h, Bool.not_true, Bool.and_false]

/-- Settles O34: with `rst = 1` the input port is not ready, and the edge is the reset pin's on the sampled pins. -/
theorem resetPinWins : Obligations.ResetPinWins := by
  intro s p ps hin hfits hrst hwf
  refine ⟨not_inReady_of_rst hrst, ?_⟩
  obtain rfl := pinsOf_of_cons hin
  rw [step_reset hwf hfits hrst, sampled_of_cons hin]
  rfl

end Sys2Proof.Machine
end
